-- ==== Sys2Proof/Word.lean ====
section
/-! DEFINITION. The two widths of data the core moves: the byte and the 32-bit word (00_scope.md R9 to R11). -/

namespace Sys2Proof

/-- A byte, an 8-bit unsigned value (00_scope.md R10). -/
abbrev Byte := BitVec 8

/-- A 32-bit word: a host register, a command word, a SHA-256 word or a key-schedule word (00_scope.md R11). -/
abbrev Word := BitVec 32

end Sys2Proof
end

