-- ==== Sys2Proof/Config.lean ====
section
/-! DEFINITION. The implementation parameters of 00_scope.md R7 (and `ENTROPY_MODEL` of 44_rng.md R290) as a record
that every state carries and no step changes, and the FREE VALUES: constants without a body, which stand for every
value the spec leaves open (93_implementation_defined.md U5, U8, U10, U11, U12). -/

namespace Sys2Proof

/-- `CHAIN_MODE` (00_scope.md R7, 92_eei_decisions.md D22): CBC is the only admitted value; any other value, here
under its name, is refused. -/
inductive ChainMode where
  | cbc
  | other (name : String)
  deriving DecidableEq, Repr

/-- The parameters the platform fixes before reset (00_scope.md R7). Every one of them is an argument of the model:
a statement about all states is a statement about all configurations. -/
structure Config where
  /-- `CORE_BASE`: the host bus address of the register window (U1). -/
  coreBase : Nat
  /-- `DMEM_SIZE`: the size of the data memory in bytes (U2). -/
  dmemSize : Nat
  /-- `CHAIN_MODE` (U3). -/
  chainMode : ChainMode
  /-- `ENTROPY_MODEL`: the platform's free-text description of its entropy source; no rule reads it (44_rng.md R290, U6). -/
  entropyModel : String
  deriving DecidableEq, Repr

/-- The configuration of the test programs of 95_test_vectors.md: 1024 bytes of DMEM, CBC; the window stands at bus
address 0. DESIGN CHOICE (log 1): R7 leaves `CORE_BASE` and `DMEM_SIZE` open. -/
def Config.testPrograms : Config :=
  { coreBase := 0, dmemSize := 1024, chainMode := .cbc, entropyModel := "" }

/-- FREE VALUE (log 7). `RNG_ORACLE` (00_scope.md R7, 44_rng.md R291): the byte the entropy source gives, for its hidden
entropy (10_state.md R41), here numbered by the resets so far, and for the history of draws since reset. -/
opaque Config.rngOracle : Nat → List Byte → Byte

/-- FREE VALUE (log 8). A byte of SHABUF that no rule defines (10_state.md R31, U8): the free value's number, the byte's index. -/
opaque Config.freeBufferByte : Nat → Nat → Byte

/-- FREE VALUE (log 8). SHABUFLEN after SHA_FINAL (41_sha256.md R162, U8); its range 0..63 is 10_state.md R32. -/
opaque Config.freeBufferLength : Nat → Fin 64

/-- FREE VALUE (log 8). SHATOTLEN after SHA_FINAL (41_sha256.md R162, U8). -/
opaque Config.freeTotalLength : Nat → BitVec 64

/-- FREE VALUE (log 8). A word of RK beyond `4*(NR+1)-1` after AES_KEY (42_aes.md R220, U10): the free value's number, the word's index. -/
opaque Config.freeKeyWord : Nat → Nat → Word

/-- FREE VALUE (log 8). PENDING while BUSY = 0 (10_state.md R40, U11). -/
opaque Config.freePending : Nat → Word

end Sys2Proof
end

