-- ==== Sys2Proof/Syntax.lean ====
section
/-! DEFINITION. The command set: one constructor per row of the opcode map (30_encoding.md R92). A command word
carries no operand (R90, R93), so no constructor has an argument: the operands are SRC, LEN, DST, IV0 to IV3, DMEM
and the two contexts, all of them state. -/

namespace Sys2Proof

/-- The eleven commands of 30_encoding.md R92. -/
inductive Instr where
  /-- SHA_INIT, opcode 0x01 (41_sha256.md R160). -/
  | shaInit
  /-- SHA_ABSORB, opcode 0x02 (41_sha256.md R161). -/
  | shaAbsorb
  /-- SHA_FINAL, opcode 0x03 (41_sha256.md R162). -/
  | shaFinal
  /-- AES_KEY, opcode 0x10 (42_aes.md R220). -/
  | aesKey
  /-- AES_ENC, opcode 0x11 (42_aes.md R221). -/
  | aesEnc
  /-- AES_DEC, opcode 0x12 (42_aes.md R222). -/
  | aesDec
  /-- PAD, opcode 0x20 (43_pkcs7_chain.md R254). -/
  | pad
  /-- UNPAD, opcode 0x21 (43_pkcs7_chain.md R255). -/
  | unpad
  /-- ENCRYPT, opcode 0x22 (43_pkcs7_chain.md R256). -/
  | encrypt
  /-- DECRYPT, opcode 0x23 (43_pkcs7_chain.md R257). -/
  | decrypt
  /-- RNG_GET, opcode 0x30 (44_rng.md R292). -/
  | rngGet
  deriving DecidableEq, Repr

end Sys2Proof
end

