-- ==== Sys2Proof/WellFormed.lean ====
section
/-! DEFINITION. What the spec calls legal: command words (30_encoding.md R91, R94, R95, R97) and configurations
(00_scope.md R7). A command as syntax has no operand, so every `Instr` is well formed; what can be ill formed is the
word the host writes and the configuration the platform chooses. -/

namespace Sys2Proof

/-- OPCODE, bits [7:0] of a command word (30_encoding.md R91). -/
def wordOpcode (w : Word) : Byte := w.extractLsb' 0 8

/-- RSVD, bits [31:8] of a command word (30_encoding.md R91). -/
def wordReserved (w : Word) : BitVec 24 := w.extractLsb' 8 24

/-- A command as syntax is always well formed: it has no field (30_encoding.md R90). -/
def Instr.wf : Instr → Bool := fun _ => true

/-- The reserved field is zero (30_encoding.md R94). -/
def reservedFieldClear (w : Word) : Bool := wordReserved w == 0#24

/-- The OPCODE is one of the eleven assigned values; the ranges are 30_encoding.md R95's complement. -/
def opcodeAssigned (w : Word) : Bool :=
  let op := (wordOpcode w).toNat
  (1 ≤ op && op ≤ 3) || (0x10 ≤ op && op ≤ 0x12) || (0x20 ≤ op && op ≤ 0x23) || op == 0x30

/-- A legal command word (30_encoding.md R97). -/
def wordWellFormed (w : Word) : Bool := reservedFieldClear w && opcodeAssigned w

/-- `CORE_BASE` is aligned to 0x10000 (00_scope.md R7). -/
def Config.baseAligned (c : Config) : Bool := c.coreBase % 0x10000 == 0

/-- `DMEM_SIZE` is a multiple of 16 from 64 to 0xF000 (00_scope.md R7). -/
def Config.sizeLegal (c : Config) : Bool :=
  c.dmemSize % 16 == 0 && decide (64 ≤ c.dmemSize) && decide (c.dmemSize ≤ 0xF000)

/-- `CHAIN_MODE` is CBC (00_scope.md R7). -/
def Config.modeAdmitted (c : Config) : Bool := c.chainMode == .cbc

/-- A legal configuration (00_scope.md R7). -/
def Config.legal (c : Config) : Bool := c.baseAligned && c.sizeLegal && c.modeAdmitted

end Sys2Proof
end

