-- ==== Sys2Proof/Decode.lean ====
section
/-! DEFINITION. Decoding of command words (30_encoding.md R90 to R97), total on all 2^32 words, and AFTER it the
encoder. Every word that is no command decodes to the one verdict *illegal* (R97). -/

namespace Sys2Proof

/-- What a command word decodes to (30_encoding.md R97): a command, or the single verdict *illegal*. -/
inductive Decoded where
  | command (i : Instr)
  | illegal
  deriving DecidableEq, Repr

/-- The opcode map of 30_encoding.md R92: one row per assigned OPCODE value. -/
def opcodeMap : List (Byte × Instr) :=
  [(0x01#8, .shaInit), (0x02#8, .shaAbsorb), (0x03#8, .shaFinal),
   (0x10#8, .aesKey), (0x11#8, .aesEnc), (0x12#8, .aesDec),
   (0x20#8, .pad), (0x21#8, .unpad), (0x22#8, .encrypt), (0x23#8, .decrypt),
   (0x30#8, .rngGet)]

/-- The command an OPCODE value selects; every unlisted value is illegal (30_encoding.md R92, R95). -/
def decodeOpcode (op : Byte) : Decoded :=
  match opcodeMap.lookup op with
  | some i => .command i
  | none => .illegal

/-- Decode (30_encoding.md R97): a nonzero RSVD field is illegal whatever the OPCODE (R94). -/
def decode (w : Word) : Decoded :=
  if wordReserved w = 0#24 then decodeOpcode (wordOpcode w) else .illegal

/-- The command of a verdict, if it is one. -/
def Decoded.instr? : Decoded → Option Instr
  | .command i => some i
  | .illegal => none

/-- The 32-bit value that the four bytes of one 32-bit host access carry, the byte at the lowest offset the least
significant (20_memory.md R65). -/
def wordOfBusBytes (b0 b1 b2 b3 : Byte) : Word := b3 ++ b2 ++ b1 ++ b0

/-- Decoding of the bytes of a CMD write in bus order. A command word is four bytes and has no other length
(30_encoding.md R90, R97): any other number of bytes is no command word. -/
def decodeBytes : List Byte → Decoded
  | [b0, b1, b2, b3] => decode (wordOfBusBytes b0 b1 b2 b3)
  | _ => .illegal

/-- Byte `i` of a 32-bit value in bus order (20_memory.md R65). -/
def busByte (w : Word) (i : Nat) : Byte := w.extractLsb' (8 * i) 8

/-- The host's probe of the decoder: the bits `w` laid out as the four bytes of a command word. -/
def decodeTableWord (nbits w : Nat) : Option Instr :=
  if nbits ≤ 32 ∧ w < 2 ^ 32 then
    let v : Word := BitVec.ofNat 32 w
    (decodeBytes [busByte v 0, busByte v 1, busByte v 2, busByte v 3]).instr?
  else none

/-- The command word of a command: RSVD zero, OPCODE as 30_encoding.md R91 and R92 give it. -/
def encode : Instr → Word
  | .shaInit => 0x00000001#32
  | .shaAbsorb => 0x00000002#32
  | .shaFinal => 0x00000003#32
  | .aesKey => 0x00000010#32
  | .aesEnc => 0x00000011#32
  | .aesDec => 0x00000012#32
  | .pad => 0x00000020#32
  | .unpad => 0x00000021#32
  | .encrypt => 0x00000022#32
  | .decrypt => 0x00000023#32
  | .rngGet => 0x00000030#32

end Sys2Proof
end

