-- ==== Sys2Proof/Machine/State.lean ====
section
/-! DEFINITION. Everything the spec gives the machine (10_state.md, 20_memory.md R44/R62/R69, 44_rng.md R291), as
plain data, with the model's own bookkeeping; the reset states (70_reset_and_hazards.md R360); faults and refusals. -/

namespace Sys2Proof.Machine

/-- The error codes of 60_exceptions.md R321 by name; their 4-bit values stand in `Flags.lean`. Codes 9 to 15 are
never produced, so they have no constructor. -/
inductive ErrCode where
  | ok
  | invalidKeyLength
  | invalidPadding
  | invalidCiphertextLength
  | entropySourceUnavailable
  | contextFinalized
  | noKey
  | boundsError
  | illegalCommand
  deriving DecidableEq, Repr

/-- `core.SHATAG` (10_state.md R34). -/
inductive ShaTag where
  | ready
  | finalized
  deriving DecidableEq, Repr

/-- Eight 32-bit words: `core.H[0..7]` (10_state.md R30) and the working variables `a..h` of a round (41_sha256.md R150). -/
structure HashWords where
  a : Word
  b : Word
  c : Word
  d : Word
  e : Word
  f : Word
  g : Word
  h : Word
  deriving DecidableEq, Repr

/-- The HashContext (00_scope.md R14; 10_state.md R30 to R34). -/
structure HashContext where
  /-- `core.H[0..7]` (R30). -/
  h : HashWords
  /-- `core.SHABUF[0..63]` (R31). -/
  shabuf : Vector Byte 64
  /-- `core.SHABUFLEN`, 0..63 (R32). -/
  shabuflen : Fin 64
  /-- `core.SHATOTLEN` (R33). -/
  shatotlen : BitVec 64
  /-- `core.SHATAG` (R34). -/
  shatag : ShaTag
  deriving DecidableEq, Repr

/-- The AESKey (00_scope.md R14; 10_state.md R36 to R38). -/
structure AesKey where
  /-- `core.KEYVALID` (R36). -/
  keyvalid : Bool
  /-- `core.NK` (R36). -/
  nk : Nat
  /-- `core.NR` (R36). -/
  nr : Nat
  /-- `core.RK[0..59]` (R37). -/
  rk : Vector Word 60
  deriving DecidableEq, Repr

/-- DMEM: the written bytes by DMEM offset, offsets strictly rising; an unlisted offset is *unwritten* (20_memory.md R62, R69).
DESIGN CHOICE (log 15): the list form. -/
abbrev Memory := List Host.Cell

/-- One host access to the bus (20_memory.md R60 to R71): its width in bits, its bus address and, for a write, the
value (DESIGN CHOICE, log 13: an 8-bit or 16-bit write carries its low bits). -/
inductive HostAccess where
  | read (width addr : Nat)
  | write (width addr : Nat) (value : Word)
  deriving DecidableEq, Repr

/-- What happens next from outside or inside the core (10_state.md R21): an access of the host, the sequencer's step,
or the platform's reset with the `ENTROPY_PRESENT` it draws (44_rng.md R294). A list of turns is one interleaving: DESIGN CHOICE (log 4). -/
inductive Turn where
  | host (a : HostAccess)
  | sequencer
  | reset (present : Bool)
  deriving DecidableEq, Repr

/-- The state of the core, with the parameters it was configured with and the turns still to come. -/
structure State where
  /-- The parameters (00_scope.md R7); no step changes them. -/
  cfg : Config
  /-- CMD (10_state.md R24). -/
  cmd : Word
  /-- SRC (R26). -/
  src : Word
  /-- LEN (R27). -/
  len : Word
  /-- DST (R28). -/
  dst : Word
  /-- OUTLEN (R29). -/
  outlen : Word
  /-- RNGOUT (R45). -/
  rngout : Word
  /-- `IV[0..15]`, the register file IV0 to IV3 (R46). -/
  iv : Vector Byte 16
  /-- STATUS.ERR (R25). -/
  err : ErrCode
  /-- `core.FATAL` (R39). -/
  fatal : Bool
  /-- `core.BUSY` (R40). -/
  busy : Bool
  /-- `core.PENDING` (R40). -/
  pending : Word
  /-- The HashContext (R30 to R35). -/
  sha : HashContext
  /-- The AESKey (R36 to R38). -/
  aes : AesKey
  /-- DMEM (R44). -/
  dmem : Memory
  /-- The bytes drawn since reset, oldest first (44_rng.md R291). -/
  rngHistory : List Byte
  /-- The oracle's next answers as far as the platform has fixed them (44_rng.md R295, R41); when there are none
  left, the answer is the free value `Config.rngOracle`. DESIGN CHOICE (log 7). -/
  rngAnswers : List Byte
  /-- MODEL. The resets so far: which hidden entropy the oracle holds (10_state.md R41). DESIGN CHOICE (log 7). -/
  resets : Nat
  /-- MODEL. Which free value an unspecified result takes next. DESIGN CHOICE (log 8). -/
  freeCount : Nat
  /-- From an issue until a STATUS read has returned BUSY = 0 (70_reset_and_hazards.md R364). -/
  busyWindow : Bool
  /-- MODEL. The value the last host read returned. DESIGN CHOICE (log 13). -/
  rdata : Word
  /-- MODEL. The turns to come, first one first. DESIGN CHOICE (log 4). -/
  turns : List Turn
  deriving DecidableEq, Repr

/-- Reasons the machine stops: the four model-level faults of 60_exceptions.md R339. Each of them is SAFE: the model
stops where the hardware would at worst give an unknown value or drop a write. -/
inductive Fault where
  /-- Raised by a host access that is misaligned, of a wrong width or reserved (20_memory.md R67, R68). Safe. -/
  | busFault (offset width : Nat)
  /-- Raised by a host read or a command that reads an unwritten DMEM byte (20_memory.md R69). Safe. -/
  | unwrittenRead (a : Nat)
  /-- Raised by a host access other than a STATUS read in a BUSY window (70_reset_and_hazards.md R364). Safe. -/
  | hostHazard (offset : Nat)
  /-- Raised by every step, command and start under a `CHAIN_MODE` other than CBC (00_scope.md R7). Safe. -/
  | configRefused (mode : ChainMode)
  deriving DecidableEq, Repr

/-- Reasons the model gives no meaning. -/
inductive Refusal where
  /-- Raised by an arm of `exec` whose instruction has no meaning yet. Safe. (No arm of this model does.) -/
  | notModelled (mnemonic : String)
  /-- Raised by `State.start` alone, for a `CORE_BASE` or `DMEM_SIZE` outside the legal values of 00_scope.md R7.
  Safe. No instruction raises it. -/
  | illegalParameter
  deriving DecidableEq, Repr

/-- The state right after a reset that drew `present` (70_reset_and_hazards.md R360, R361; 44_rng.md R294). What R360
calls unspecified (H, SHABUF, SHABUFLEN, SHATOTLEN, NK, NR, RK, PENDING) is zero here: DESIGN CHOICE (log 2). -/
def State.afterReset (cfg : Config) (present : Bool) : State :=
  { cfg := cfg
    cmd := 0#32, src := 0#32, len := 0#32, dst := 0#32, outlen := 0#32, rngout := 0#32
    iv := Vector.replicate 16 0#8
    err := if present then .ok else .entropySourceUnavailable
    fatal := !present
    busy := false
    pending := 0#32
    sha :=
      { h := ⟨0#32, 0#32, 0#32, 0#32, 0#32, 0#32, 0#32, 0#32⟩
        shabuf := Vector.replicate 64 0#8, shabuflen := 0, shatotlen := 0#64, shatag := .finalized }
    aes := { keyvalid := false, nk := 0, nr := 0, rk := Vector.replicate 60 0#32 }
    dmem := []
    rngHistory := [], rngAnswers := [], resets := 0, freeCount := 0
    busyWindow := false, rdata := 0#32, turns := [] }

/-- The machine right after reset: the configuration of 95_test_vectors.md (log 1) and a reset that found the entropy
source (log 3). Every other reset is `State.afterReset cfg present`. -/
def State.reset : State := State.afterReset Config.testPrograms true

end Sys2Proof.Machine
end

