-- ==== Sys2Proof/Machine/Bytes.lean ====
section
/-! DEFINITION. The pseudocode primitives of 00_scope.md R10 and R11 on byte strings and 32-bit words, the byte order of
the host bus (20_memory.md R65) and the byte-and-word conventions of the two algorithms. A byte string is a `List Byte`. -/

namespace Sys2Proof.Machine

/-- `bytes(n, v)`, `n` bytes each equal to `v` (00_scope.md R10). -/
def bytesOf (n : Nat) (v : Byte) : List Byte := List.replicate n v

/-- `BE32(s, i)`: the word whose most significant byte is `s[i]` (00_scope.md R10). -/
def be32 (s : List Byte) (i : Nat) : Word :=
  s.getD i 0#8 ++ s.getD (i + 1) 0#8 ++ s.getD (i + 2) 0#8 ++ s.getD (i + 3) 0#8

/-- Byte `i` of a word, byte 0 being bits [31:24] (42_aes.md R195). -/
def beByte (w : Word) (i : Nat) : Byte := w.extractLsb' (24 - 8 * i) 8

/-- `BE32enc(w)` (00_scope.md R10). -/
def be32enc (w : Word) : List Byte := [beByte w 0, beByte w 1, beByte w 2, beByte w 3]

/-- `BE64enc(v)` (00_scope.md R10). -/
def be64enc (v : BitVec 64) : List Byte :=
  be32enc (v.extractLsb' 32 32) ++ be32enc (v.extractLsb' 0 32)

/-- The value of a bus read of the given bytes, the byte at the lowest offset the least significant: a 32-bit read
returns `Σ DMEM[a+j]·2^(8j)` (20_memory.md R65). -/
def busValue : List Byte → Word
  | [] => 0#32
  | b :: bs => (busValue bs <<< 8) ||| b.setWidth 32

/-- The `n` low bytes of a value in bus order (20_memory.md R65). -/
def busBytes (v : Word) (n : Nat) : List Byte := (List.range n).map (busByte v)

/-- Bytewise exclusive-or of two byte strings of equal length (00_scope.md R11). -/
def xorBytes (s t : List Byte) : List Byte := List.zipWith (· ^^^ ·) s t

/-- `ROTR(x, n)` for 0 < n < 32 (00_scope.md R11). -/
def rotr (x : Word) (n : Nat) : Word := (x >>> n) ||| (x <<< (32 - n))

/-- `SHR(x, n)`, a logical shift (00_scope.md R11). -/
def shr (x : Word) (n : Nat) : Word := x >>> n

/-- `ROTL8(x) = ROTR(x, 24)` (00_scope.md R11). -/
def rotl8 (x : Word) : Word := rotr x 24

/-- The first `k` 16-byte blocks of a byte string (43_pkcs7_chain.md R252, R253). -/
def blocks16 : Nat → List Byte → List (List Byte)
  | 0, _ => []
  | k + 1, s => s.take 16 :: blocks16 k (s.drop 16)

/-- The first `k` 64-byte blocks of a byte string (41_sha256.md R153). -/
def blocks64 : Nat → List Byte → List (List Byte)
  | 0, _ => []
  | k + 1, s => s.take 64 :: blocks64 k (s.drop 64)

end Sys2Proof.Machine
end

