-- ==== Sys2Proof/Machine/Flags.lean ====
section
/-! DEFINITION. The flags of the core: the STATUS fields (10_state.md R25, R43), computed from the state they read, and
the numeric error codes (60_exceptions.md R321). No command has condition codes. -/

namespace Sys2Proof.Machine

/-- The 4-bit value of an error code (60_exceptions.md R321). -/
def errCode : ErrCode → BitVec 4
  | .ok => 0#4
  | .invalidKeyLength => 1#4
  | .invalidPadding => 2#4
  | .invalidCiphertextLength => 3#4
  | .entropySourceUnavailable => 4#4
  | .contextFinalized => 5#4
  | .noKey => 6#4
  | .boundsError => 7#4
  | .illegalCommand => 8#4

/-- STATUS.SHA_READY (10_state.md R25). -/
def shaReady (s : State) : Bool := s.sha.shatag == .ready

/-- STATUS.KEY_SIZE: 0b00, 0b01 or 0b10 for NK = 4, 6 or 8; 0b00 when KEYVALID = 0; never 0b11 (10_state.md R25). -/
def keySize (s : State) : BitVec 2 :=
  if s.aes.keyvalid then
    if s.aes.nk = 6 then 1#2 else if s.aes.nk = 8 then 2#2 else 0#2
  else 0#2

/-- A 1-bit field as a word. -/
def flagWord (b : Bool) : Word := if b then 1#32 else 0#32

/-- STATUS: BUSY [0], FATAL [1], ERR [11:8], SHA_READY [16], KEY_VALID [17], KEY_SIZE [19:18]; every other bit reads 0
(10_state.md R25, R47). -/
def statusWord (s : State) : Word :=
  flagWord s.busy ||| flagWord s.fatal <<< 1 ||| (errCode s.err).setWidth 32 <<< 8 |||
  flagWord (shaReady s) <<< 16 ||| flagWord s.aes.keyvalid <<< 17 ||| (keySize s).setWidth 32 <<< 18

end Sys2Proof.Machine
end

