-- ==== Sys2Proof/Machine/Ops.lean ====
section
/-! DEFINITION. The named operations over DMEM, the random draws and the ends of a command that every meaning shares:
the commit (40_command_cycle.md R125), the rejection (R126), which is all the core does about an exception since it has no
trap entry and no return from one (60_exceptions.md R320, R334), and the completion (R127). -/

namespace Sys2Proof.Machine

/-- The outcome of one step of this machine. -/
abbrev Result := Host.Outcome State Fault Refusal

/-- The canonical form of DMEM: offsets strictly rising. An unlisted offset is unwritten, so no entry can equal what an
unlisted offset reads as. -/
def Memory.wf (m : Memory) : Bool := decide (m.Pairwise fun x y => x.1 < y.1)

/-- DMEM byte `a`, or `none` when it is unwritten (20_memory.md R62, R69). -/
def memByte : Memory → Nat → Option Byte
  | [], _ => none
  | c :: m, a => if c.1 = a then some c.2 else memByte m a

/-- `DMEM[a] <- b`, in canonical form. -/
def memSet : Memory → Nat → Byte → Memory
  | [], a, b => [(a, b)]
  | c :: m, a, b =>
    if a < c.1 then (a, b) :: c :: m
    else if a = c.1 then (a, b) :: m
    else c :: memSet m a b

/-- What `MemRead` gives: the bytes, or the lowest unwritten offset of the range (DESIGN CHOICE, log 6). -/
inductive MemResult where
  | bytes (bs : List Byte)
  | unwritten (a : Nat)
  deriving DecidableEq, Repr

/-- `MemRead(a, n)` (20_memory.md R62, R69). -/
def memRead (m : Memory) : Nat → Nat → MemResult
  | _, 0 => .bytes []
  | a, n + 1 =>
    match memByte m a with
    | none => .unwritten a
    | some b =>
      match memRead m (a + 1) n with
      | .bytes bs => .bytes (b :: bs)
      | .unwritten u => .unwritten u

/-- `MemWrite(a, len(bs), bs)`: `DMEM[a+i] <- bs[i]` (20_memory.md R62). -/
def memWrite : Memory → Nat → List Byte → Memory
  | m, _, [] => m
  | m, a, b :: bs => memWrite (memSet m a b) (a + 1) bs

/-- Completion: BUSY <- 0 (40_command_cycle.md R127). PENDING means nothing while BUSY = 0 (10_state.md R40), so it takes
a free value (U11; DESIGN CHOICE, log 8); the counter of free values moves on. -/
def complete (s : State) : State :=
  { s with busy := false, pending := Config.freePending s.freeCount, freeCount := s.freeCount + 1 }

/-- Commit of a command that wrote `n` bytes at DST: ERR <- 0 and OUTLEN <- n (40_command_cycle.md R125), then completion. -/
def commit (n : Nat) (s : State) : State :=
  complete { s with err := .ok, outlen := BitVec.ofNat 32 n }

/-- Rejection: ERR <- the code, OUTLEN <- 0 and nothing else (40_command_cycle.md R126), then completion. -/
def reject (e : ErrCode) (s : State) : State :=
  complete { s with err := e, outlen := 0#32 }

/-- The commit of a command whose only result is a byte string at DST (40_command_cycle.md R125). -/
def commitAtDst (bs : List Byte) (s : State) : State :=
  commit bs.length { s with dmem := memWrite s.dmem s.dst.toNat bs }

/-- No core runs under a `CHAIN_MODE` other than CBC: the configuration is refused (00_scope.md R7, 60_exceptions.md R339).
DEDUCED (log 14): the refusal before reset is repeated by every step and command. -/
def underConfig (s : State) (r : Result) : Result :=
  match s.cfg.chainMode with
  | .cbc => r
  | .other name => .fault (.configRefused (.other name))

/-- The oracle's answer to the next draw: the platform's injected answer if there is one (44_rng.md R295), else the
free value (R291). DESIGN CHOICE (log 7). A draw never fails (log 17). -/
def rngNext (s : State) : Byte :=
  match s.rngAnswers with
  | x :: _ => x
  | [] => Config.rngOracle s.resets s.rngHistory

/-- `draw_rng()`'s effect on the unit: the byte joins the history (44_rng.md R291) and an injected answer is used up. -/
def rngAdvance (s : State) : State :=
  { s with rngHistory := s.rngHistory ++ [rngNext s], rngAnswers := s.rngAnswers.tail }

/-- `n` draws in order: the bytes drawn (44_rng.md R291). -/
def rngDraws : Nat → State → List Byte
  | 0, _ => []
  | n + 1, s => rngNext s :: rngDraws n (rngAdvance s)

/-- The state after `n` draws (44_rng.md R291). -/
def rngAfter : Nat → State → State
  | 0, s => s
  | n + 1, s => rngAfter n (rngAdvance s)

end Sys2Proof.Machine
end

