-- ==== Sys2Proof/Machine/Aes.lean ====
section
/-! DEFINITION. The AES unit's algorithm (42_aes.md R190 to R208): the field GF(2^8), the S-boxes, key expansion, the
round transforms, the forward cipher and the straightforward inverse cipher. -/

namespace Sys2Proof.Machine

/-- `xtime(b)` (42_aes.md R190). -/
def xtime (b : Byte) : Byte := (b <<< 1) ^^^ (if b.getLsbD 7 then 0x1b#8 else 0x00#8)

/-- `xtime^i(a)` (42_aes.md R190). -/
def xtimes : Nat → Byte → Byte
  | 0, a => a
  | i + 1, a => xtimes i (xtime a)

/-- `a • b`, the XOR of `xtime^i(a)` over the set bits `i` of `b` (42_aes.md R190). -/
def gfMul (a b : Byte) : Byte :=
  (List.range 8).foldl (fun acc i => if b.getLsbD i then acc ^^^ xtimes i a else acc) 0x00#8

/-- The multiplicative inverse `inv(b)`, as `b^254 = b^2 • b^4 • … • b^128` (42_aes.md R190). DEDUCED (log 9): the rule
defines it as the `c` with `b • c = 0x01`, and 0x00 for 0x00. -/
def gfInv (b : Byte) : Byte :=
  let b2 := gfMul b b
  let b4 := gfMul b2 b2
  let b8 := gfMul b4 b4
  let b16 := gfMul b8 b8
  let b32 := gfMul b16 b16
  let b64 := gfMul b32 b32
  let b128 := gfMul b64 b64
  gfMul b2 (gfMul b4 (gfMul b8 (gfMul b16 (gfMul b32 (gfMul b64 b128)))))

/-- The affine map `A` of 42_aes.md R192. -/
def sboxAffine (b : Byte) : Byte :=
  b ^^^ b.rotateRight 4 ^^^ b.rotateRight 5 ^^^ b.rotateRight 6 ^^^ b.rotateRight 7 ^^^ 0x63#8

/-- The forward S-box, its rows by the high nibble, its columns by the low one (42_aes.md R191). -/
def sboxRows : List (List Byte) :=
  [[0x63#8, 0x7c#8, 0x77#8, 0x7b#8, 0xf2#8, 0x6b#8, 0x6f#8, 0xc5#8, 0x30#8, 0x01#8, 0x67#8, 0x2b#8, 0xfe#8, 0xd7#8, 0xab#8, 0x76#8],
   [0xca#8, 0x82#8, 0xc9#8, 0x7d#8, 0xfa#8, 0x59#8, 0x47#8, 0xf0#8, 0xad#8, 0xd4#8, 0xa2#8, 0xaf#8, 0x9c#8, 0xa4#8, 0x72#8, 0xc0#8],
   [0xb7#8, 0xfd#8, 0x93#8, 0x26#8, 0x36#8, 0x3f#8, 0xf7#8, 0xcc#8, 0x34#8, 0xa5#8, 0xe5#8, 0xf1#8, 0x71#8, 0xd8#8, 0x31#8, 0x15#8],
   [0x04#8, 0xc7#8, 0x23#8, 0xc3#8, 0x18#8, 0x96#8, 0x05#8, 0x9a#8, 0x07#8, 0x12#8, 0x80#8, 0xe2#8, 0xeb#8, 0x27#8, 0xb2#8, 0x75#8],
   [0x09#8, 0x83#8, 0x2c#8, 0x1a#8, 0x1b#8, 0x6e#8, 0x5a#8, 0xa0#8, 0x52#8, 0x3b#8, 0xd6#8, 0xb3#8, 0x29#8, 0xe3#8, 0x2f#8, 0x84#8],
   [0x53#8, 0xd1#8, 0x00#8, 0xed#8, 0x20#8, 0xfc#8, 0xb1#8, 0x5b#8, 0x6a#8, 0xcb#8, 0xbe#8, 0x39#8, 0x4a#8, 0x4c#8, 0x58#8, 0xcf#8],
   [0xd0#8, 0xef#8, 0xaa#8, 0xfb#8, 0x43#8, 0x4d#8, 0x33#8, 0x85#8, 0x45#8, 0xf9#8, 0x02#8, 0x7f#8, 0x50#8, 0x3c#8, 0x9f#8, 0xa8#8],
   [0x51#8, 0xa3#8, 0x40#8, 0x8f#8, 0x92#8, 0x9d#8, 0x38#8, 0xf5#8, 0xbc#8, 0xb6#8, 0xda#8, 0x21#8, 0x10#8, 0xff#8, 0xf3#8, 0xd2#8]] ++
  [[0xcd#8, 0x0c#8, 0x13#8, 0xec#8, 0x5f#8, 0x97#8, 0x44#8, 0x17#8, 0xc4#8, 0xa7#8, 0x7e#8, 0x3d#8, 0x64#8, 0x5d#8, 0x19#8, 0x73#8],
   [0x60#8, 0x81#8, 0x4f#8, 0xdc#8, 0x22#8, 0x2a#8, 0x90#8, 0x88#8, 0x46#8, 0xee#8, 0xb8#8, 0x14#8, 0xde#8, 0x5e#8, 0x0b#8, 0xdb#8],
   [0xe0#8, 0x32#8, 0x3a#8, 0x0a#8, 0x49#8, 0x06#8, 0x24#8, 0x5c#8, 0xc2#8, 0xd3#8, 0xac#8, 0x62#8, 0x91#8, 0x95#8, 0xe4#8, 0x79#8],
   [0xe7#8, 0xc8#8, 0x37#8, 0x6d#8, 0x8d#8, 0xd5#8, 0x4e#8, 0xa9#8, 0x6c#8, 0x56#8, 0xf4#8, 0xea#8, 0x65#8, 0x7a#8, 0xae#8, 0x08#8],
   [0xba#8, 0x78#8, 0x25#8, 0x2e#8, 0x1c#8, 0xa6#8, 0xb4#8, 0xc6#8, 0xe8#8, 0xdd#8, 0x74#8, 0x1f#8, 0x4b#8, 0xbd#8, 0x8b#8, 0x8a#8],
   [0x70#8, 0x3e#8, 0xb5#8, 0x66#8, 0x48#8, 0x03#8, 0xf6#8, 0x0e#8, 0x61#8, 0x35#8, 0x57#8, 0xb9#8, 0x86#8, 0xc1#8, 0x1d#8, 0x9e#8],
   [0xe1#8, 0xf8#8, 0x98#8, 0x11#8, 0x69#8, 0xd9#8, 0x8e#8, 0x94#8, 0x9b#8, 0x1e#8, 0x87#8, 0xe9#8, 0xce#8, 0x55#8, 0x28#8, 0xdf#8],
   [0x8c#8, 0xa1#8, 0x89#8, 0x0d#8, 0xbf#8, 0xe6#8, 0x42#8, 0x68#8, 0x41#8, 0x99#8, 0x2d#8, 0x0f#8, 0xb0#8, 0x54#8, 0xbb#8, 0x16#8]]

/-- The inverse S-box, laid out as the forward one (42_aes.md R193). -/
def invSboxRows : List (List Byte) :=
  [[0x52#8, 0x09#8, 0x6a#8, 0xd5#8, 0x30#8, 0x36#8, 0xa5#8, 0x38#8, 0xbf#8, 0x40#8, 0xa3#8, 0x9e#8, 0x81#8, 0xf3#8, 0xd7#8, 0xfb#8],
   [0x7c#8, 0xe3#8, 0x39#8, 0x82#8, 0x9b#8, 0x2f#8, 0xff#8, 0x87#8, 0x34#8, 0x8e#8, 0x43#8, 0x44#8, 0xc4#8, 0xde#8, 0xe9#8, 0xcb#8],
   [0x54#8, 0x7b#8, 0x94#8, 0x32#8, 0xa6#8, 0xc2#8, 0x23#8, 0x3d#8, 0xee#8, 0x4c#8, 0x95#8, 0x0b#8, 0x42#8, 0xfa#8, 0xc3#8, 0x4e#8],
   [0x08#8, 0x2e#8, 0xa1#8, 0x66#8, 0x28#8, 0xd9#8, 0x24#8, 0xb2#8, 0x76#8, 0x5b#8, 0xa2#8, 0x49#8, 0x6d#8, 0x8b#8, 0xd1#8, 0x25#8],
   [0x72#8, 0xf8#8, 0xf6#8, 0x64#8, 0x86#8, 0x68#8, 0x98#8, 0x16#8, 0xd4#8, 0xa4#8, 0x5c#8, 0xcc#8, 0x5d#8, 0x65#8, 0xb6#8, 0x92#8],
   [0x6c#8, 0x70#8, 0x48#8, 0x50#8, 0xfd#8, 0xed#8, 0xb9#8, 0xda#8, 0x5e#8, 0x15#8, 0x46#8, 0x57#8, 0xa7#8, 0x8d#8, 0x9d#8, 0x84#8],
   [0x90#8, 0xd8#8, 0xab#8, 0x00#8, 0x8c#8, 0xbc#8, 0xd3#8, 0x0a#8, 0xf7#8, 0xe4#8, 0x58#8, 0x05#8, 0xb8#8, 0xb3#8, 0x45#8, 0x06#8],
   [0xd0#8, 0x2c#8, 0x1e#8, 0x8f#8, 0xca#8, 0x3f#8, 0x0f#8, 0x02#8, 0xc1#8, 0xaf#8, 0xbd#8, 0x03#8, 0x01#8, 0x13#8, 0x8a#8, 0x6b#8]] ++
  [[0x3a#8, 0x91#8, 0x11#8, 0x41#8, 0x4f#8, 0x67#8, 0xdc#8, 0xea#8, 0x97#8, 0xf2#8, 0xcf#8, 0xce#8, 0xf0#8, 0xb4#8, 0xe6#8, 0x73#8],
   [0x96#8, 0xac#8, 0x74#8, 0x22#8, 0xe7#8, 0xad#8, 0x35#8, 0x85#8, 0xe2#8, 0xf9#8, 0x37#8, 0xe8#8, 0x1c#8, 0x75#8, 0xdf#8, 0x6e#8],
   [0x47#8, 0xf1#8, 0x1a#8, 0x71#8, 0x1d#8, 0x29#8, 0xc5#8, 0x89#8, 0x6f#8, 0xb7#8, 0x62#8, 0x0e#8, 0xaa#8, 0x18#8, 0xbe#8, 0x1b#8],
   [0xfc#8, 0x56#8, 0x3e#8, 0x4b#8, 0xc6#8, 0xd2#8, 0x79#8, 0x20#8, 0x9a#8, 0xdb#8, 0xc0#8, 0xfe#8, 0x78#8, 0xcd#8, 0x5a#8, 0xf4#8],
   [0x1f#8, 0xdd#8, 0xa8#8, 0x33#8, 0x88#8, 0x07#8, 0xc7#8, 0x31#8, 0xb1#8, 0x12#8, 0x10#8, 0x59#8, 0x27#8, 0x80#8, 0xec#8, 0x5f#8],
   [0x60#8, 0x51#8, 0x7f#8, 0xa9#8, 0x19#8, 0xb5#8, 0x4a#8, 0x0d#8, 0x2d#8, 0xe5#8, 0x7a#8, 0x9f#8, 0x93#8, 0xc9#8, 0x9c#8, 0xef#8],
   [0xa0#8, 0xe0#8, 0x3b#8, 0x4d#8, 0xae#8, 0x2a#8, 0xf5#8, 0xb0#8, 0xc8#8, 0xeb#8, 0xbb#8, 0x3c#8, 0x83#8, 0x53#8, 0x99#8, 0x61#8],
   [0x17#8, 0x2b#8, 0x04#8, 0x7e#8, 0xba#8, 0x77#8, 0xd6#8, 0x26#8, 0xe1#8, 0x69#8, 0x14#8, 0x63#8, 0x55#8, 0x21#8, 0x0c#8, 0x7d#8]]

/-- An entry of an S-box: row = high nibble, column = low nibble (42_aes.md R191). -/
def sboxEntry (rows : List (List Byte)) (x : Byte) : Byte := (rows.getD (x.toNat / 16) []).getD (x.toNat % 16) 0x00#8

/-- `SBOX[x]` (42_aes.md R191). -/
def sbox (x : Byte) : Byte := sboxEntry sboxRows x

/-- `INVSBOX[y]` (42_aes.md R193). -/
def invSbox (y : Byte) : Byte := sboxEntry invSboxRows y

/-- `RC[j]`, j from 1: 0x01, then `xtime` of the one before (42_aes.md R194). -/
def aesRC (j : Nat) : Byte := xtimes (j - 1) 0x01#8

/-- `Rcon[j] = RC[j] << 24` (42_aes.md R194). -/
def aesRcon (j : Nat) : Word := (aesRC j).setWidth 32 <<< 24

/-- SubWord (42_aes.md R196). -/
def subWord (w : Word) : Word :=
  sbox (beByte w 0) ++ sbox (beByte w 1) ++ sbox (beByte w 2) ++ sbox (beByte w 3)

/-- RotWord, which is ROTL8 (42_aes.md R197). -/
def rotWord (w : Word) : Word := rotl8 w

/-- The word `w[i]`, `i = w.length ≥ Nk`, of the key schedule (42_aes.md R198). -/
def keyNextWord (nk : Nat) (w : List Word) : Word :=
  let i := w.length
  let t := w.getD (i - 1) 0#32
  let t' :=
    if i % nk = 0 then subWord (rotWord t) ^^^ aesRcon (i / nk)
    else if nk = 8 ∧ i % 8 = 4 then subWord t
    else t
  w.getD (i - nk) 0#32 ^^^ t'

/-- `n` more words of the key schedule (42_aes.md R198). -/
def keyExtend (nk : Nat) : Nat → List Word → List Word
  | 0, w => w
  | n + 1, w => keyExtend nk n (w ++ [keyNextWord nk w])

/-- `Nk` of a raw key (42_aes.md R198). -/
def keyNk (rawKey : List Byte) : Nat := rawKey.length / 4

/-- `Nr = Nk + 6` (42_aes.md R198). -/
def keyNr (rawKey : List Byte) : Nat := keyNk rawKey + 6

/-- The words of `KeyExpansion(rawKey)`, `w[0 .. 4(Nr+1)-1]` (42_aes.md R198). -/
def keyExpansion (rawKey : List Byte) : List Word :=
  let nk := keyNk rawKey
  keyExtend nk (4 * (keyNr rawKey + 1) - nk) ((List.range nk).map fun i => be32 rawKey (4 * i))

/-- A column of the AES state: the cells of rows 0 to 3 (42_aes.md R199). -/
structure AesColumn where
  r0 : Byte
  r1 : Byte
  r2 : Byte
  r3 : Byte
  deriving DecidableEq, Repr

/-- The 4x4 byte state by its columns: `s[r][c]` is row `r` of column `c` (42_aes.md R199). -/
structure AesState where
  c0 : AesColumn
  c1 : AesColumn
  c2 : AesColumn
  c3 : AesColumn
  deriving DecidableEq, Repr

/-- Column `c` of a block: `s[r][c] = in[r + 4c]` (42_aes.md R199). -/
def columnOfBlock (b : List Byte) (c : Nat) : AesColumn :=
  ⟨b.getD (4 * c) 0#8, b.getD (1 + 4 * c) 0#8, b.getD (2 + 4 * c) 0#8, b.getD (3 + 4 * c) 0#8⟩

/-- Block to state (42_aes.md R199). -/
def stateOfBlock (b : List Byte) : AesState :=
  ⟨columnOfBlock b 0, columnOfBlock b 1, columnOfBlock b 2, columnOfBlock b 3⟩

/-- The bytes of a column, row 0 first. -/
def columnBytes (k : AesColumn) : List Byte := [k.r0, k.r1, k.r2, k.r3]

/-- State to block: `out[r + 4c] = s[r][c]` (42_aes.md R199). -/
def blockOfState (s : AesState) : List Byte :=
  columnBytes s.c0 ++ columnBytes s.c1 ++ columnBytes s.c2 ++ columnBytes s.c3

/-- The same function on every column. -/
def mapColumns (f : AesColumn → AesColumn) (s : AesState) : AesState := ⟨f s.c0, f s.c1, f s.c2, f s.c3⟩

/-- The same function on every cell of a column. -/
def mapCells (f : Byte → Byte) (k : AesColumn) : AesColumn := ⟨f k.r0, f k.r1, f k.r2, f k.r3⟩

/-- A column plus a schedule word: row `i` takes byte `i` of the word (42_aes.md R200). -/
def addWord (k : AesColumn) (w : Word) : AesColumn :=
  ⟨k.r0 ^^^ beByte w 0, k.r1 ^^^ beByte w 1, k.r2 ^^^ beByte w 2, k.r3 ^^^ beByte w 3⟩

/-- AddRoundKey(s, r) with the schedule `w` (42_aes.md R200). -/
def addRoundKey (w : List Word) (r : Nat) (s : AesState) : AesState :=
  ⟨addWord s.c0 (w.getD (4 * r) 0#32), addWord s.c1 (w.getD (4 * r + 1) 0#32),
   addWord s.c2 (w.getD (4 * r + 2) 0#32), addWord s.c3 (w.getD (4 * r + 3) 0#32)⟩

/-- SubBytes (42_aes.md R201). -/
def subBytes (s : AesState) : AesState := mapColumns (mapCells sbox) s

/-- InvSubBytes (42_aes.md R202). -/
def invSubBytes (s : AesState) : AesState := mapColumns (mapCells invSbox) s

/-- ShiftRows: `s'[r][c] = s[r][(c + r) mod 4]` (42_aes.md R203). -/
def shiftRows (s : AesState) : AesState :=
  ⟨⟨s.c0.r0, s.c1.r1, s.c2.r2, s.c3.r3⟩, ⟨s.c1.r0, s.c2.r1, s.c3.r2, s.c0.r3⟩,
   ⟨s.c2.r0, s.c3.r1, s.c0.r2, s.c1.r3⟩, ⟨s.c3.r0, s.c0.r1, s.c1.r2, s.c2.r3⟩⟩

/-- InvShiftRows: `s'[r][(c + r) mod 4] = s[r][c]` (42_aes.md R204). -/
def invShiftRows (s : AesState) : AesState :=
  ⟨⟨s.c0.r0, s.c3.r1, s.c2.r2, s.c1.r3⟩, ⟨s.c1.r0, s.c0.r1, s.c3.r2, s.c2.r3⟩,
   ⟨s.c2.r0, s.c1.r1, s.c0.r2, s.c3.r3⟩, ⟨s.c3.r0, s.c2.r1, s.c1.r2, s.c0.r3⟩⟩

/-- A row of a matrix product in GF(2^8): `x0•r0 ^ x1•r1 ^ x2•r2 ^ x3•r3` (42_aes.md R205, R206). -/
def mixRow (x0 x1 x2 x3 : Byte) (k : AesColumn) : Byte :=
  gfMul x0 k.r0 ^^^ gfMul x1 k.r1 ^^^ gfMul x2 k.r2 ^^^ gfMul x3 k.r3

/-- MixColumns on one column: the circulant matrix with first row (02, 03, 01, 01) (42_aes.md R205). -/
def mixColumn (k : AesColumn) : AesColumn :=
  ⟨mixRow 0x02#8 0x03#8 0x01#8 0x01#8 k, mixRow 0x01#8 0x02#8 0x03#8 0x01#8 k,
   mixRow 0x01#8 0x01#8 0x02#8 0x03#8 k, mixRow 0x03#8 0x01#8 0x01#8 0x02#8 k⟩

/-- InvMixColumns on one column: the circulant matrix with first row (0e, 0b, 0d, 09) (42_aes.md R206). -/
def invMixColumn (k : AesColumn) : AesColumn :=
  ⟨mixRow 0x0e#8 0x0b#8 0x0d#8 0x09#8 k, mixRow 0x09#8 0x0e#8 0x0b#8 0x0d#8 k,
   mixRow 0x0d#8 0x09#8 0x0e#8 0x0b#8 k, mixRow 0x0b#8 0x0d#8 0x09#8 0x0e#8 k⟩

/-- MixColumns (42_aes.md R205). -/
def mixColumns (s : AesState) : AesState := mapColumns mixColumn s

/-- InvMixColumns (42_aes.md R206). -/
def invMixColumns (s : AesState) : AesState := mapColumns invMixColumn s

/-- Round `r` of the forward cipher, 1 ≤ r < Nr (42_aes.md R207). -/
def encRound (w : List Word) (r : Nat) (s : AesState) : AesState :=
  addRoundKey w r (mixColumns (shiftRows (subBytes s)))

/-- Rounds 1 to `n` of the forward cipher, in order (42_aes.md R207). -/
def encRounds (w : List Word) : Nat → AesState → AesState
  | 0, s => s
  | n + 1, s => encRound w (n + 1) (encRounds w n s)

/-- The forward cipher on the state (42_aes.md R207). -/
def cipherState (w : List Word) (nr : Nat) (s : AesState) : AesState :=
  addRoundKey w nr (shiftRows (subBytes (encRounds w (nr - 1) (addRoundKey w 0 s))))

/-- `Cipher(w, Nr, in)` (42_aes.md R207). -/
def aesCipher (w : List Word) (nr : Nat) (b : List Byte) : List Byte :=
  blockOfState (cipherState w nr (stateOfBlock b))

/-- Round `r` of the inverse cipher, 1 ≤ r < Nr (42_aes.md R208). -/
def decRound (w : List Word) (r : Nat) (s : AesState) : AesState :=
  invMixColumns (addRoundKey w r (invSubBytes (invShiftRows s)))

/-- Rounds `n` down to 1 of the inverse cipher (42_aes.md R208). -/
def decRounds (w : List Word) : Nat → AesState → AesState
  | 0, s => s
  | n + 1, s => decRounds w n (decRound w (n + 1) s)

/-- The inverse cipher on the state (42_aes.md R208). -/
def invCipherState (w : List Word) (nr : Nat) (s : AesState) : AesState :=
  addRoundKey w 0 (invSubBytes (invShiftRows (decRounds w (nr - 1) (addRoundKey w nr s))))

/-- `InvCipher(w, Nr, in)` (42_aes.md R208). -/
def aesInvCipher (w : List Word) (nr : Nat) (b : List Byte) : List Byte :=
  blockOfState (invCipherState w nr (stateOfBlock b))

end Sys2Proof.Machine
end

