-- ==== Sys2Proof/Machine/Pkcs7.lean ====
section
/-! DEFINITION. The padding and chaining functions (43_pkcs7_chain.md R250 to R253): PKCS7 to 16-byte blocks, and CBC,
the only admitted `CHAIN_MODE` (00_scope.md R7). -/

namespace Sys2Proof.Machine

/-- `padLen = 16 - (len mod 16)`, always in 1..16 (43_pkcs7_chain.md R250). -/
def padLength (len : Nat) : Nat := 16 - len % 16

/-- The length of a padded buffer, `LEN + 16 - (LEN mod 16)` (43_pkcs7_chain.md R254). -/
def paddedLength (len : Nat) : Nat := len + padLength len

/-- `Pad(m)` (43_pkcs7_chain.md R250). -/
def pkcs7Pad (m : List Byte) : List Byte :=
  m ++ bytesOf (padLength m.length) (BitVec.ofNat 8 (padLength m.length))

/-- `Unpad(b)`; `none` is the verdict INVALID (43_pkcs7_chain.md R251). -/
def pkcs7Unpad (b : List Byte) : Option (List Byte) :=
  let n := (b.getLastD 0#8).toNat
  if b.length = 0 then none
  else if b.length % 16 ≠ 0 then none
  else if n = 0 ∨ 16 < n then none
  else if (b.drop (b.length - n)).all (· == BitVec.ofNat 8 n) then some (b.take (b.length - n))
  else none

/-- The blocks of `ChainEnc` with the previous ciphertext block (43_pkcs7_chain.md R252). -/
def chainEncBlocks (w : List Word) (nr : Nat) : List Byte → List (List Byte) → List Byte
  | _, [] => []
  | prev, p :: ps =>
    let c := aesCipher w nr (xorBytes p prev)
    c ++ chainEncBlocks w nr c ps

/-- `ChainEnc(w, Nr, iv, p)` (43_pkcs7_chain.md R252). -/
def chainEnc (w : List Word) (nr : Nat) (iv p : List Byte) : List Byte :=
  chainEncBlocks w nr iv (blocks16 (p.length / 16) p)

/-- The blocks of `ChainDec` with the previous ciphertext block (43_pkcs7_chain.md R253). -/
def chainDecBlocks (w : List Word) (nr : Nat) : List Byte → List (List Byte) → List Byte
  | _, [] => []
  | prev, c :: cs => xorBytes (aesInvCipher w nr c) prev ++ chainDecBlocks w nr c cs

/-- `ChainDec(w, Nr, iv, c)` (43_pkcs7_chain.md R253). -/
def chainDec (w : List Word) (nr : Nat) (iv c : List Byte) : List Byte :=
  chainDecBlocks w nr iv (blocks16 (c.length / 16) c)

end Sys2Proof.Machine
end

