-- ==== Sys2Proof/Machine/Operands.lean ====
section
/-! DEFINITION. How each command forms its operands (30_encoding.md R93), its source and destination ranges
(40_command_cycle.md R124), and the checks that come before its DMEM read, in the order of R123. -/

namespace Sys2Proof.Machine

/-- The source range `(SRC, nsrc)` of a command, if it has one (40_command_cycle.md R124). AES_ENC and AES_DEC do not
read LEN (30_encoding.md R93). -/
def sourceRange (i : Instr) (s : State) : Option (Nat × Nat) :=
  match i with
  | .shaInit => none
  | .shaAbsorb => some (s.src.toNat, s.len.toNat)
  | .shaFinal => none
  | .aesKey => some (s.src.toNat, s.len.toNat)
  | .aesEnc => some (s.src.toNat, 16)
  | .aesDec => some (s.src.toNat, 16)
  | .pad => some (s.src.toNat, s.len.toNat)
  | .unpad => some (s.src.toNat, s.len.toNat)
  | .encrypt => some (s.src.toNat, s.len.toNat)
  | .decrypt => some (s.src.toNat, s.len.toNat)
  | .rngGet => none

/-- The destination range `(DST, ndst)` that is checked, if the command has one (40_command_cycle.md R124): for UNPAD
and DECRYPT the largest output, LEN. -/
def destRange (i : Instr) (s : State) : Option (Nat × Nat) :=
  match i with
  | .shaInit => none
  | .shaAbsorb => none
  | .shaFinal => some (s.dst.toNat, 32)
  | .aesKey => none
  | .aesEnc => some (s.dst.toNat, 16)
  | .aesDec => some (s.dst.toNat, 16)
  | .pad => some (s.dst.toNat, paddedLength s.len.toNat)
  | .unpad => some (s.dst.toNat, s.len.toNat)
  | .encrypt => some (s.dst.toNat, paddedLength s.len.toNat)
  | .decrypt => some (s.dst.toNat, s.len.toNat)
  | .rngGet => none

/-- A range lies in DMEM; the sum is on unbounded naturals, and an empty range must still start at or before the end
(40_command_cycle.md R124). -/
def rangeFits (size : Nat) : Option (Nat × Nat) → Bool
  | none => true
  | some (a, n) => decide (a + n ≤ size)

/-- Check 3 of 40_command_cycle.md R123: operand ranges. -/
def boundsError (i : Instr) (s : State) : Option ErrCode :=
  if rangeFits s.cfg.dmemSize (sourceRange i s) && rangeFits s.cfg.dmemSize (destRange i s) then none
  else some .boundsError

/-- ContextFinalized unless the context is Ready (60_exceptions.md R326). -/
def needsReadyContext (s : State) : Option ErrCode :=
  if s.sha.shatag = .finalized then some .contextFinalized else none

/-- NoKey unless a key schedule is loaded (60_exceptions.md R327). -/
def needsKey (s : State) : Option ErrCode :=
  if s.aes.keyvalid then none else some .noKey

/-- Check 4 of 40_command_cycle.md R123: context state. -/
def contextError (i : Instr) (s : State) : Option ErrCode :=
  match i with
  | .shaInit => none
  | .shaAbsorb => needsReadyContext s
  | .shaFinal => needsReadyContext s
  | .aesKey => none
  | .aesEnc => needsKey s
  | .aesDec => needsKey s
  | .pad => none
  | .unpad => none
  | .encrypt => needsKey s
  | .decrypt => needsKey s
  | .rngGet => none

/-- The legal key lengths, 16, 24 and 32 bytes (42_aes.md R220). -/
def keyLengthLegal (n : Nat) : Bool := n == 16 || n == 24 || n == 32

/-- Check 5 of 40_command_cycle.md R123: length legality, of AES_KEY and of DECRYPT. -/
def lengthError (i : Instr) (s : State) : Option ErrCode :=
  match i with
  | .shaInit => none
  | .shaAbsorb => none
  | .shaFinal => none
  | .aesKey => if keyLengthLegal s.len.toNat then none else some .invalidKeyLength
  | .aesEnc => none
  | .aesDec => none
  | .pad => none
  | .unpad => none
  | .encrypt => none
  | .decrypt => if s.len.toNat % 16 = 0 then none else some .invalidCiphertextLength
  | .rngGet => none

/-- Check 1 of 40_command_cycle.md R123: FATAL. -/
def fatalError (s : State) : Option ErrCode :=
  if s.fatal then some .entropySourceUnavailable else none

/-- The checks of a legal command that precede its DMEM read, in the order of 40_command_cycle.md R123: FATAL (1), ranges
(3), context (4), length (5). Check 2, the word's legality, is the decoder's. -/
def preError (i : Instr) (s : State) : Option ErrCode :=
  (fatalError s).or ((boundsError i s).or ((contextError i s).or (lengthError i s)))

/-- A command: the configuration, the checks of R123 that precede the operand read, then its own rule. -/
def checked (i : Instr) (s : State) (body : Result) : Result :=
  underConfig s
    (match preError i s with
     | some e => .next (reject e s)
     | none => body)

/-- An illegal command word: IllegalCommand, below FATAL alone (40_command_cycle.md R122, R123). -/
def illegalWord (s : State) : Result :=
  underConfig s (.next (reject ((fatalError s).getD .illegalCommand) s))

/-- The operand read, step 6 of 40_command_cycle.md R123: `m <- MemRead(SRC, n)`, and the model fault when a byte of the
range is unwritten. -/
def withSource (n : Nat) (s : State) (k : List Byte → Result) : Result :=
  match memRead s.dmem s.src.toNat n with
  | .bytes m => k m
  | .unwritten a => .fault (.unwrittenRead a)

/-- The bytes of the IV register, byte 0 first (10_state.md R46, 30_encoding.md R93). -/
def ivBytes (s : State) : List Byte := s.iv.toList

/-- The IV register holding the given 16 bytes (10_state.md R46). -/
def ivOfBytes (bs : List Byte) : Vector Byte 16 := Vector.ofFn fun j => bs.getD j.val 0#8

/-- The loaded key schedule `core.RK` as the words of 42_aes.md R198 (30_encoding.md R93). -/
def keyWords (s : State) : List Word := s.aes.rk.toList

end Sys2Proof.Machine
end

