-- ==== Sys2Proof/Machine/Bus.lean ====
section
/-! DEFINITION. The host's side: the register map (10_state.md R23 to R29, R45 to R48), the address map and the access
rules of the window (20_memory.md R60 to R71), the issue of a command (40_command_cycle.md R120), the BUSY-window hazard
(70_reset_and_hazards.md R364) and the platform's reset and start (R360, 00_scope.md R7). -/

namespace Sys2Proof.Machine

/-- The registers of 10_state.md R23; `iv k` is IVk. -/
inductive HostReg where
  | cmd
  | status
  | src
  | len
  | dst
  | outlen
  | rngout
  | iv (k : Fin 4)
  deriving DecidableEq, Repr

/-- The register at a window offset (10_state.md R23); every other offset of register space is reserved (R47). -/
def regAt (off : Nat) : Option HostReg :=
  match off with
  | 0x000 => some .cmd
  | 0x004 => some .status
  | 0x008 => some .src
  | 0x00C => some .len
  | 0x010 => some .dst
  | 0x014 => some .outlen
  | 0x018 => some .rngout
  | 0x020 => some (.iv 0)
  | 0x024 => some (.iv 1)
  | 0x028 => some (.iv 2)
  | 0x02C => some (.iv 3)
  | _ => none

/-- The window offset of a register (10_state.md R23). -/
def regOffset : HostReg → Nat
  | .cmd => 0x000
  | .status => 0x004
  | .src => 0x008
  | .len => 0x00C
  | .dst => 0x010
  | .outlen => 0x014
  | .rngout => 0x018
  | .iv k => 0x020 + 4 * k.val

/-- IVk: `IV[4k+j]` in bits `[8j+7 : 8j]` (10_state.md R46). -/
def ivWord (s : State) (k : Fin 4) : Word := busValue ((ivBytes s).drop (4 * k.val) |>.take 4)

/-- The IV register after a write of IVk (10_state.md R46). -/
def ivSetWord (iv : Vector Byte 16) (k : Fin 4) (v : Word) : Vector Byte 16 :=
  Vector.ofFn fun j => if j.val / 4 = k.val then busByte v (j.val % 4) else iv.get j

/-- The value a host read of a register returns; no register read has a side effect (10_state.md R24 to R29, R45, R46). -/
def regRead (s : State) : HostReg → Word
  | .cmd => s.cmd
  | .status => statusWord s
  | .src => s.src
  | .len => s.len
  | .dst => s.dst
  | .outlen => s.outlen
  | .rngout => s.rngout
  | .iv k => ivWord s k

/-- Issue (40_command_cycle.md R120); the BUSY window opens (70_reset_and_hazards.md R364). -/
def issue (v : Word) (s : State) : State :=
  { s with cmd := v, pending := v, busy := true, busyWindow := true }

/-- A host write of a register: CMD issues, the read-only registers ignore it, the others store it (20_memory.md R70). -/
def regWrite (v : Word) (s : State) : HostReg → State
  | .cmd => issue v s
  | .status => s
  | .src => { s with src := v }
  | .len => { s with len := v }
  | .dst => { s with dst := v }
  | .outlen => s
  | .rngout => s
  | .iv k => { s with iv := ivSetWord s.iv k v }

/-- Where a legal access falls in the window (20_memory.md R61): a register, or `n` DMEM bytes from an offset. -/
inductive Target where
  | reg (r : HostReg)
  | dmem (a n : Nat)
  deriving DecidableEq, Repr

/-- The target of an access of `width` bits at window offset `off`, or `none` for a bus fault: registers take 32-bit
accesses at their own offsets (20_memory.md R64), DMEM naturally aligned accesses of 8, 16 or 32 bits inside DMEM (R63); the
rest is misaligned, of a wrong width or reserved (R67, R68). -/
def busTarget (size width off : Nat) : Option Target :=
  if off < 0x1000 then
    if width = 32 then (regAt off).map .reg else none
  else if (width = 8 ∨ width = 16 ∨ width = 32) ∧ off % (width / 8) = 0 ∧ off - 0x1000 + width / 8 ≤ size then
    some (.dmem (off - 0x1000) (width / 8))
  else none

/-- The window offset of a bus address, or `none` outside the window of 0x10000 bytes at `CORE_BASE` (20_memory.md R60). -/
def busOffset (c : Config) (addr : Nat) : Option Nat :=
  if c.coreBase ≤ addr ∧ addr < c.coreBase + 0x10000 then some (addr - c.coreBase) else none

/-- A BUSY window is open: BUSY = 1, or no STATUS read has returned BUSY = 0 since the last issue (70_reset_and_hazards.md
R364; DEDUCED, log 10). -/
def inBusyWindow (s : State) : Bool := s.busy || s.busyWindow

/-- A completed host read: the value goes to the host. A STATUS read that returns BUSY = 0 closes the BUSY window
(70_reset_and_hazards.md R364). -/
def regReadDone (r : HostReg) (s : State) : State :=
  match r with
  | .status => { s with rdata := statusWord s, busyWindow := s.busy }
  | r => { s with rdata := regRead s r }

/-- A host read of `width` bits at window offset `off`. In a BUSY window only a 32-bit STATUS read is allowed, and the hazard
ranks before a bus fault (70_reset_and_hazards.md R364; DEDUCED, log 11). -/
def hostRead (width off : Nat) (s : State) : Result :=
  if inBusyWindow s && !(width == 32 && off == 0x004) then .fault (.hostHazard off)
  else
    match busTarget s.cfg.dmemSize width off with
    | none => .fault (.busFault off width)
    | some (.reg r) => .next (regReadDone r s)
    | some (.dmem a n) =>
      match memRead s.dmem a n with
      | .bytes bs => .next { s with rdata := busValue bs }
      | .unwritten u => .fault (.unwrittenRead u)

/-- A host write of `width` bits at window offset `off`; none is allowed in a BUSY window (70_reset_and_hazards.md R364). -/
def hostWrite (width off : Nat) (v : Word) (s : State) : Result :=
  if inBusyWindow s then .fault (.hostHazard off)
  else
    match busTarget s.cfg.dmemSize width off with
    | none => .fault (.busFault off width)
    | some (.reg r) => .next (regWrite v s r)
    | some (.dmem a n) => .next { s with dmem := memWrite s.dmem a (busBytes v n) }

/-- One host access. An address outside the window is not the core's: nothing happens to it (20_memory.md R60; DEDUCED,
log 12). -/
def hostAccess (a : HostAccess) (s : State) : Result :=
  underConfig s
    (match a with
     | .read width addr =>
       match busOffset s.cfg addr with
       | some off => hostRead width off s
       | none => .next s
     | .write width addr v =>
       match busOffset s.cfg addr with
       | some off => hostWrite width off v s
       | none => .next s)

/-- The platform's reset in a running machine (70_reset_and_hazards.md R360): the reset state, under the parameters and
the oracle the machine has, with other hidden entropy (10_state.md R41) and a new history (44_rng.md R291). The host's
turns are not the core's state. DESIGN CHOICE (log 16): what a reset keeps of the model's own fields. -/
def platformReset (present : Bool) (s : State) : State :=
  { State.afterReset s.cfg present with
    rngAnswers := s.rngAnswers, resets := s.resets + 1, freeCount := s.freeCount, rdata := s.rdata, turns := s.turns }

/-- The start of a machine under a configuration (00_scope.md R7): a `CHAIN_MODE` other than CBC is refused before reset
(60_exceptions.md R339), and so is a `CORE_BASE` or `DMEM_SIZE` that is not legal (DESIGN CHOICE, log 14). -/
def State.start (c : Config) (present : Bool) : Result :=
  match c.chainMode with
  | .other name => .fault (.configRefused (.other name))
  | .cbc => if c.legal then .next (State.afterReset c present) else .refused .illegalParameter

end Sys2Proof.Machine
end

