-- ==== Sys2Proof/Machine/AesUnit.lean ====
section
/-! DEFINITION. The AES family: AES_KEY, AES_ENC, AES_DEC (42_aes.md R220 to R222). -/

namespace Sys2Proof.Machine

/-- `core.RK` after AES_KEY: the words of the schedule, and a free value for each word beyond them (42_aes.md R220, U10). -/
def loadSchedule (n : Nat) (w : List Word) : Vector Word 60 :=
  Vector.ofFn fun j => w.getD j.val (Config.freeKeyWord n j.val)

/-- The AESKey a raw key gives (42_aes.md R198, R220). -/
def loadKey (n : Nat) (rawKey : List Byte) : AesKey :=
  { keyvalid := true, nk := keyNk rawKey, nr := keyNr rawKey, rk := loadSchedule n (keyExpansion rawKey) }

/-- AES_KEY (42_aes.md R220). -/
def execAesKey (s : State) : Result :=
  checked .aesKey s
    (withSource s.len.toNat s fun k => .next (commit 0 { s with aes := loadKey s.freeCount k }))

/-- AES_ENC (42_aes.md R221): always 16 bytes, LEN is not read (30_encoding.md R93). -/
def execAesEnc (s : State) : Result :=
  checked .aesEnc s
    (withSource 16 s fun p => .next (commitAtDst (aesCipher (keyWords s) s.aes.nr p) s))

/-- AES_DEC (42_aes.md R222): always 16 bytes, LEN is not read (30_encoding.md R93). -/
def execAesDec (s : State) : Result :=
  checked .aesDec s
    (withSource 16 s fun c => .next (commitAtDst (aesInvCipher (keyWords s) s.aes.nr c) s))

end Sys2Proof.Machine
end

