-- ==== Sys2Proof/Machine/Chain.lean ====
section
/-! DEFINITION. The padding and chaining family: PAD, UNPAD, ENCRYPT, DECRYPT (43_pkcs7_chain.md R254 to R257). -/

namespace Sys2Proof.Machine

/-- The end of UNPAD and DECRYPT: the content check, step 7 of 40_command_cycle.md R123, then the plaintext at DST. -/
def commitUnpadded (b : List Byte) (s : State) : State :=
  match pkcs7Unpad b with
  | none => reject .invalidPadding s
  | some r => commitAtDst r s

/-- PAD (43_pkcs7_chain.md R254). -/
def execPad (s : State) : Result :=
  checked .pad s (withSource s.len.toNat s fun m => .next (commitAtDst (pkcs7Pad m) s))

/-- UNPAD (43_pkcs7_chain.md R255). -/
def execUnpad (s : State) : Result :=
  checked .unpad s (withSource s.len.toNat s fun b => .next (commitUnpadded b s))

/-- ENCRYPT of `m` under the drawn `iv`: the IV register and the ciphertext at DST (43_pkcs7_chain.md R256). -/
def commitEncrypted (iv m : List Byte) (s : State) : State :=
  commitAtDst (chainEnc (keyWords s) s.aes.nr iv (pkcs7Pad m)) { s with iv := ivOfBytes iv }

/-- ENCRYPT (43_pkcs7_chain.md R256): 16 draws, `iv[0]` first, after every check. RNGOUT is not written. -/
def execEncrypt (s : State) : Result :=
  checked .encrypt s
    (withSource s.len.toNat s fun m => .next (commitEncrypted (rngDraws 16 s) m (rngAfter 16 s)))

/-- DECRYPT (43_pkcs7_chain.md R257): the IV register is read and not changed. -/
def execDecrypt (s : State) : Result :=
  checked .decrypt s
    (withSource s.len.toNat s fun c => .next (commitUnpadded (chainDec (keyWords s) s.aes.nr (ivBytes s) c) s))

end Sys2Proof.Machine
end

