-- ==== Sys2Proof/Machine/Rng.lean ====
section
/-! DEFINITION. The RNG family: RNG_GET (44_rng.md R292). -/

namespace Sys2Proof.Machine

/-- RNG_GET (44_rng.md R292): one draw, zero-extended into RNGOUT. -/
def execRngGet (s : State) : Result :=
  checked .rngGet s (.next (commit 0 { rngAfter 1 s with rngout := (rngNext s).setWidth 32 }))

end Sys2Proof.Machine
end

