-- ==== Sys2Proof/Machine/Sha256.lean ====
section
/-! DEFINITION. The SHA-256 unit's algorithm (41_sha256.md R140 to R154): constants, logical functions, message
schedule, round, compression, absorbing a byte, final padding, digest. All arithmetic is modulo 2^32 (R164). -/

namespace Sys2Proof.Machine

/-- Initial hash value `H0[0..7]` (41_sha256.md R140). -/
def shaH0 : HashWords :=
  { a := 0x6a09e667#32, b := 0xbb67ae85#32, c := 0x3c6ef372#32, d := 0xa54ff53a#32
    e := 0x510e527f#32, f := 0x9b05688c#32, g := 0x1f83d9ab#32, h := 0x5be0cd19#32 }

/-- Round constants `K[0..63]`, a row of the table of 41_sha256.md R141 a line. -/
def shaK : List Word :=
  [0x428a2f98#32, 0x71374491#32, 0xb5c0fbcf#32, 0xe9b5dba5#32, 0x3956c25b#32, 0x59f111f1#32, 0x923f82a4#32, 0xab1c5ed5#32] ++
  [0xd807aa98#32, 0x12835b01#32, 0x243185be#32, 0x550c7dc3#32, 0x72be5d74#32, 0x80deb1fe#32, 0x9bdc06a7#32, 0xc19bf174#32] ++
  [0xe49b69c1#32, 0xefbe4786#32, 0x0fc19dc6#32, 0x240ca1cc#32, 0x2de92c6f#32, 0x4a7484aa#32, 0x5cb0a9dc#32, 0x76f988da#32] ++
  [0x983e5152#32, 0xa831c66d#32, 0xb00327c8#32, 0xbf597fc7#32, 0xc6e00bf3#32, 0xd5a79147#32, 0x06ca6351#32, 0x14292967#32] ++
  [0x27b70a85#32, 0x2e1b2138#32, 0x4d2c6dfc#32, 0x53380d13#32, 0x650a7354#32, 0x766a0abb#32, 0x81c2c92e#32, 0x92722c85#32] ++
  [0xa2bfe8a1#32, 0xa81a664b#32, 0xc24b8b70#32, 0xc76c51a3#32, 0xd192e819#32, 0xd6990624#32, 0xf40e3585#32, 0x106aa070#32] ++
  [0x19a4c116#32, 0x1e376c08#32, 0x2748774c#32, 0x34b0bcb5#32, 0x391c0cb3#32, 0x4ed8aa4a#32, 0x5b9cca4f#32, 0x682e6ff3#32] ++
  [0x748f82ee#32, 0x78a5636f#32, 0x84c87814#32, 0x8cc70208#32, 0x90befffa#32, 0xa4506ceb#32, 0xbef9a3f7#32, 0xc67178f2#32]

/-- Choice (41_sha256.md R142). -/
def shaCh (x y z : Word) : Word := (x &&& y) ^^^ (~~~x &&& z)

/-- Majority (41_sha256.md R143). -/
def shaMaj (x y z : Word) : Word := (x &&& y) ^^^ (x &&& z) ^^^ (y &&& z)

/-- Big sigma 0 (41_sha256.md R144). -/
def shaBig0 (x : Word) : Word := rotr x 2 ^^^ rotr x 13 ^^^ rotr x 22

/-- Big sigma 1 (41_sha256.md R145). -/
def shaBig1 (x : Word) : Word := rotr x 6 ^^^ rotr x 11 ^^^ rotr x 25

/-- Small sigma 0 (41_sha256.md R146). -/
def shaSmall0 (x : Word) : Word := rotr x 7 ^^^ rotr x 18 ^^^ shr x 3

/-- Small sigma 1 (41_sha256.md R147). -/
def shaSmall1 (x : Word) : Word := rotr x 17 ^^^ rotr x 19 ^^^ shr x 10

/-- `M[0..15]` of a 64-byte block, big-endian (41_sha256.md R148). -/
def shaMessageWords (block : List Byte) : List Word := (List.range 16).map fun t => be32 block (4 * t)

/-- `W[t]` for `t ≥ 16` from `W[0..t-1]` (41_sha256.md R149). -/
def shaNextWord (w : List Word) : Word :=
  let t := w.length
  shaSmall1 (w.getD (t - 2) 0#32) + w.getD (t - 7) 0#32 + shaSmall0 (w.getD (t - 15) 0#32) + w.getD (t - 16) 0#32

/-- `n` more words of the schedule (41_sha256.md R149). -/
def shaExtend : Nat → List Word → List Word
  | 0, w => w
  | n + 1, w => shaExtend n (w ++ [shaNextWord w])

/-- The message schedule `W[0..63]` of a block (41_sha256.md R148, R149). -/
def shaSchedule (block : List Byte) : List Word := shaExtend 48 (shaMessageWords block)

/-- One round with round constant `k` and schedule word `w` (41_sha256.md R150). -/
def shaRound (v : HashWords) (k w : Word) : HashWords :=
  let t1 := v.h + shaBig1 v.e + shaCh v.e v.f v.g + k + w
  let t2 := shaBig0 v.a + shaMaj v.a v.b v.c
  { a := t1 + t2, b := v.a, c := v.b, d := v.c, e := v.d + t1, f := v.e, g := v.f, h := v.g }

/-- The rounds of the given pairs `(K[t], W[t])`, in order (41_sha256.md R151). -/
def shaRounds (v : HashWords) (kws : List (Word × Word)) : HashWords :=
  kws.foldl (fun v kw => shaRound v kw.1 kw.2) v

/-- `Compress(Hin, B)`, 64 rounds and the feed-forward (41_sha256.md R151). -/
def shaCompress (hin : HashWords) (block : List Byte) : HashWords :=
  let v := shaRounds hin (shaK.zip (shaSchedule block))
  { a := hin.a + v.a, b := hin.b + v.b, c := hin.c + v.c, d := hin.d + v.d
    e := hin.e + v.e, f := hin.f + v.f, g := hin.g + v.g, h := hin.h + v.h }

/-- `AbsorbByte(x)` (41_sha256.md R152). SHABUFLEN stays in 0..63 (10_state.md R32): a byte that fills the buffer
compresses it at once. -/
def shaAbsorbByte (c : HashContext) (x : Byte) : HashContext :=
  let buf := c.shabuf.set c.shabuflen x
  let total := c.shatotlen + 1#64
  if fits : c.shabuflen.val + 1 < 64 then
    { c with shabuf := buf, shabuflen := ⟨c.shabuflen.val + 1, fits⟩, shatotlen := total }
  else
    { c with h := shaCompress c.h buf.toList, shabuf := buf, shabuflen := 0, shatotlen := total }

/-- Absorbing a byte string, one byte at a time (41_sha256.md R161). -/
def shaAbsorbBytes (c : HashContext) (m : List Byte) : HashContext := m.foldl shaAbsorbByte c

/-- The number of zero bytes of the final padding, `(55 - r) mod 64` (41_sha256.md R153). -/
def shaZeroBytes (r : Nat) : Nat := (64 + 55 - r) % 64

/-- The length field `(8 · SHATOTLEN) mod 2^64` (41_sha256.md R153). -/
def shaLengthField (total : BitVec 64) : BitVec 64 := 8#64 * total

/-- `tail` of 41_sha256.md R153: the buffered remainder, 0x80, the zero bytes, the length field. -/
def shaTail (c : HashContext) : List Byte :=
  let r := c.shabuflen.val
  c.shabuf.toList.take r ++ [0x80#8] ++ bytesOf (shaZeroBytes r) 0x00#8 ++ be64enc (shaLengthField c.shatotlen)

/-- `H` after the final padding: the blocks of `tail` compressed in order (41_sha256.md R153). -/
def shaFinalHash (c : HashContext) : HashWords :=
  let tail := shaTail c
  (blocks64 (tail.length / 64) tail).foldl shaCompress c.h

/-- `Digest(H)`, 32 bytes in big-endian word order (41_sha256.md R154). -/
def shaDigest (h : HashWords) : List Byte :=
  be32enc h.a ++ be32enc h.b ++ be32enc h.c ++ be32enc h.d ++
  be32enc h.e ++ be32enc h.f ++ be32enc h.g ++ be32enc h.h

end Sys2Proof.Machine
end

