-- ==== Sys2Proof/Machine/Sha.lean ====
section
/-! DEFINITION. The SHA-256 family: SHA_INIT, SHA_ABSORB, SHA_FINAL (41_sha256.md R160 to R162). -/

namespace Sys2Proof.Machine

/-- The context SHA_INIT leaves: H0, an empty buffer, a zero count, Ready (41_sha256.md R160). The contents of SHABUF
become meaningless, so each byte is a free value (U8). -/
def shaInitContext (n : Nat) : HashContext :=
  { h := shaH0, shabuf := Vector.ofFn fun j => Config.freeBufferByte n j.val
    shabuflen := 0, shatotlen := 0#64, shatag := .ready }

/-- The context SHA_FINAL leaves: H holds the digest words, Finalized; SHABUF, SHABUFLEN and SHATOTLEN are unspecified,
so each is a free value (41_sha256.md R162, U8). -/
def shaFinalContext (n : Nat) (c : HashContext) : HashContext :=
  { h := shaFinalHash c, shabuf := Vector.ofFn fun j => Config.freeBufferByte n j.val
    shabuflen := Config.freeBufferLength n, shatotlen := Config.freeTotalLength n, shatag := .finalized }

/-- SHA_INIT (41_sha256.md R160). -/
def execShaInit (s : State) : Result :=
  checked .shaInit s (.next (commit 0 { s with sha := shaInitContext s.freeCount }))

/-- SHA_ABSORB (41_sha256.md R161). -/
def execShaAbsorb (s : State) : Result :=
  checked .shaAbsorb s
    (withSource s.len.toNat s fun m => .next (commit 0 { s with sha := shaAbsorbBytes s.sha m }))

/-- SHA_FINAL (41_sha256.md R162). -/
def execShaFinal (s : State) : Result :=
  checked .shaFinal s
    (.next (commitAtDst (shaDigest (shaFinalHash s.sha)) { s with sha := shaFinalContext s.freeCount s.sha }))

end Sys2Proof.Machine
end

