-- ==== Sys2Proof/Machine/Dispatch.lean ====
section
/-! DEFINITION. One arm per command (30_encoding.md R92). -/

namespace Sys2Proof.Machine

/-- The execution of a command, from its checks to its completion (40_command_cycle.md R121). -/
def exec (i : Instr) (s : State) : Host.Outcome State Fault Refusal :=
  match i with
  | .shaInit => Sys2Proof.Machine.execShaInit s
  | .shaAbsorb => Sys2Proof.Machine.execShaAbsorb s
  | .shaFinal => Sys2Proof.Machine.execShaFinal s
  | .aesKey => Sys2Proof.Machine.execAesKey s
  | .aesEnc => Sys2Proof.Machine.execAesEnc s
  | .aesDec => Sys2Proof.Machine.execAesDec s
  | .pad => Sys2Proof.Machine.execPad s
  | .unpad => Sys2Proof.Machine.execUnpad s
  | .encrypt => Sys2Proof.Machine.execEncrypt s
  | .decrypt => Sys2Proof.Machine.execDecrypt s
  | .rngGet => Sys2Proof.Machine.execRngGet s

end Sys2Proof.Machine
end

