-- ==== Sys2Proof/Machine/Step.lean ====
section
/-! DEFINITION. One step of the machine: the next turn of the host, the sequencer or the platform (10_state.md R21,
20_memory.md R72). With no turn waiting, the sequencer's step follows an issue (40_command_cycle.md R121, R132) and an
idle core holds its state (60_exceptions.md R338). DESIGN CHOICE (log 4): the interleaving is the list of turns. -/

namespace Sys2Proof.Machine

/-- The sequencer's step on the command in PENDING (40_command_cycle.md R121, R122). -/
def executePending (s : State) : Host.Outcome State Fault Refusal :=
  match decode s.pending with
  | .command i => exec i s
  | .illegal => illegalWord s

/-- The sequencer's turn: its step is enabled exactly when BUSY = 1 (40_command_cycle.md R121); an idle core holds its
state (60_exceptions.md R338). -/
def sequencerTurn (s : State) : Host.Outcome State Fault Refusal :=
  if s.busy then executePending s else underConfig s (.next s)

/-- One step (10_state.md R21). -/
def step (s : State) : Host.Outcome State Fault Refusal :=
  match s.turns with
  | [] => sequencerTurn s
  | .sequencer :: ts => sequencerTurn { s with turns := ts }
  | .host a :: ts => hostAccess a { s with turns := ts }
  | .reset present :: ts => underConfig s (.next (platformReset present { s with turns := ts }))

/-- `s` with the command word `w` issued (40_command_cycle.md R120) and the sequencer's turn next: no turn of the host
or the platform waits before it. DESIGN CHOICE (log 5). -/
def State.withFetchWord (s : State) (_nbits w : Nat) : State :=
  { issue (BitVec.ofNat 32 w) s with turns := [] }

end Sys2Proof.Machine
end

