-- ==== Sys2Proof/Machine/Script.lean ====
section
/-! DEFINITION. The host-script notation (30_encoding.md R98) and the pseudo-commands (R99) as lists of turns. -/

namespace Sys2Proof.Machine

/-- `WR REG, v` (30_encoding.md R98). -/
def scriptWR (c : Config) (r : HostReg) (v : Word) : Turn := .host (.write 32 (c.coreBase + regOffset r) v)

/-- `RD REG` (30_encoding.md R98). -/
def scriptRD (c : Config) (r : HostReg) : Turn := .host (.read 32 (c.coreBase + regOffset r))

/-- `WRB D[a], v` (30_encoding.md R98). -/
def scriptWRB (c : Config) (a : Nat) (v : Byte) : Turn := .host (.write 8 (c.coreBase + (0x1000 + a)) (v.setWidth 32))

/-- `RDB D[a]` (30_encoding.md R98). -/
def scriptRDB (c : Config) (a : Nat) : Turn := .host (.read 8 (c.coreBase + (0x1000 + a)))

/-- `WRW D[a], v` (30_encoding.md R98). -/
def scriptWRW (c : Config) (a : Nat) (v : Word) : Turn := .host (.write 32 (c.coreBase + (0x1000 + a)) v)

/-- `RDW D[a]` (30_encoding.md R98). -/
def scriptRDW (c : Config) (a : Nat) : Turn := .host (.read 32 (c.coreBase + (0x1000 + a)))

/-- `WAIT`, the loop of STATUS reads until BUSY = 0 (30_encoding.md R98), in the interleaving in which `polls` reads find
the core busy before the sequencer's step; the window may last any finite time (U25; DESIGN CHOICE, log 18). -/
def scriptWAIT (c : Config) (polls : Nat) : List Turn :=
  List.replicate polls (scriptRD c .status) ++ [.sequencer, scriptRD c .status]

/-- The ERR field that `CHECK` branches on, `s[11:8]` (30_encoding.md R99). -/
def statusErr (s : Word) : BitVec 4 := s.extractLsb' 8 4

/-- The pseudo-commands (30_encoding.md R99). -/
inductive Pseudo where
  | shaInit
  | shaAbsorb (src len : Word)
  | shaFinal (dst : Word)
  | aesKey (src len : Word)
  | aesEnc (src dst : Word)
  | aesDec (src dst : Word)
  | pad (src len dst : Word)
  | unpad (src len dst : Word)
  | encrypt (src len dst : Word)
  | decrypt (src len dst : Word)
  | rngGet
  | sha256 (src len dst : Word)
  | check
  deriving DecidableEq, Repr

/-- Issue a command and wait for it. -/
def scriptCommand (c : Config) (polls : Nat) (i : Instr) : List Turn :=
  scriptWR c .cmd (encode i) :: scriptWAIT c polls

/-- The expansions of 30_encoding.md R99 (`SHA256` is SHA_INIT, SHA_ABSORB, SHA_FINAL). -/
def scriptExpand (c : Config) (polls : Nat) : Pseudo → List Turn
  | .shaInit => scriptCommand c polls .shaInit
  | .shaAbsorb src len => [scriptWR c .src src, scriptWR c .len len] ++ scriptCommand c polls .shaAbsorb
  | .shaFinal dst => scriptWR c .dst dst :: scriptCommand c polls .shaFinal
  | .aesKey src len => [scriptWR c .src src, scriptWR c .len len] ++ scriptCommand c polls .aesKey
  | .aesEnc src dst => [scriptWR c .src src, scriptWR c .dst dst] ++ scriptCommand c polls .aesEnc
  | .aesDec src dst => [scriptWR c .src src, scriptWR c .dst dst] ++ scriptCommand c polls .aesDec
  | .pad src len dst =>
    [scriptWR c .src src, scriptWR c .len len, scriptWR c .dst dst] ++ scriptCommand c polls .pad
  | .unpad src len dst =>
    [scriptWR c .src src, scriptWR c .len len, scriptWR c .dst dst] ++ scriptCommand c polls .unpad
  | .encrypt src len dst =>
    [scriptWR c .src src, scriptWR c .len len, scriptWR c .dst dst] ++ scriptCommand c polls .encrypt
  | .decrypt src len dst =>
    [scriptWR c .src src, scriptWR c .len len, scriptWR c .dst dst] ++ scriptCommand c polls .decrypt
  | .rngGet => scriptCommand c polls .rngGet
  | .sha256 src len dst =>
    scriptCommand c polls .shaInit ++
    ([scriptWR c .src src, scriptWR c .len len] ++ scriptCommand c polls .shaAbsorb) ++
    (scriptWR c .dst dst :: scriptCommand c polls .shaFinal)
  | .check => [scriptRD c .status]

end Sys2Proof.Machine
end

