-- ==== Sys2Proof/Safety.lean ====
section
/-! DEFINITION. What claims speak of: the invariant of the machine's states, runs, the end of a run and its observation
(70_reset_and_hazards.md R370), and what the host can see. -/

namespace Sys2Proof.Machine

/-- The key length and round count of a loaded key (10_state.md R36). -/
abbrev AesKey.sizesLegal (k : AesKey) : Prop :=
  (k.nk = 4 ∧ k.nr = 10) ∨ (k.nk = 6 ∧ k.nr = 12) ∨ (k.nk = 8 ∧ k.nr = 14)

/-- What every state of a run satisfies. -/
structure State.Inv (s : State) : Prop where
  /-- DMEM is in canonical form. -/
  canonical : Memory.wf s.dmem = true
  /-- DMEM holds nothing beyond DMEM_SIZE (20_memory.md R62). -/
  inside : ∀ a, s.cfg.dmemSize ≤ a → memByte s.dmem a = none
  /-- While the context is Ready, the buffer holds what the counter counts beyond whole blocks (10_state.md R32, R33). -/
  counted : s.sha.shatag = .ready → s.sha.shatotlen.toNat % 64 = s.sha.shabuflen.val
  /-- A loaded key has a legal NK with NR = NK + 6 (10_state.md R36). -/
  keySizes : s.aes.keyvalid = true → s.aes.sizesLegal
  /-- RNGOUT[31:8] reads 0 (10_state.md R45). -/
  rngByte : s.rngout.toNat < 256
  /-- OUTLEN never exceeds DMEM_SIZE (10_state.md R29, 40_command_cycle.md R124). -/
  outFits : s.outlen.toNat ≤ s.cfg.dmemSize
  /-- BUSY = 1 only inside a BUSY window (70_reset_and_hazards.md R364). -/
  window : s.busy = true → s.busyWindow = true
  /-- While BUSY = 1, PENDING is the last word written to CMD (40_command_cycle.md R120, R130). -/
  latch : s.busy = true → s.pending = s.cmd
  /-- A core whose reset found no entropy has done nothing since: every command was rejected (40_command_cycle.md R129). -/
  fatalIdle : s.fatal = true →
    s.err = .entropySourceUnavailable ∧ s.outlen = 0#32 ∧ s.rngout = 0#32 ∧
    s.sha.shatag = .finalized ∧ s.aes.keyvalid = false ∧ s.rngHistory = []

/-- A run of the machine: finitely many steps, each of which answers a next state. -/
inductive RunsTo : State → State → Prop where
  | done (s : State) : RunsTo s s
  | more {s t u : State} : step s = .next t → RunsTo t u → RunsTo s u

/-- A run has ended when the host has made its last access and BUSY = 0 (70_reset_and_hazards.md R370). -/
abbrev State.ended (s : State) : Prop := s.turns = [] ∧ s.busy = false

/-- A step is safe when it answers a next state: a fault state is never a good final state (60_exceptions.md R339). -/
def SafeStep (s : State) : Prop := ∃ t, step s = .next t

/-- What the host sees at the end of a run (70_reset_and_hazards.md R370): the registers of 10_state.md R23 and the
written DMEM bytes. -/
structure Observation where
  cmd : Word
  status : Word
  src : Word
  len : Word
  dst : Word
  outlen : Word
  rngout : Word
  iv : Vector Byte 16
  written : Memory
  deriving DecidableEq, Repr

/-- The observation of a state (70_reset_and_hazards.md R370). -/
def observe (s : State) : Observation :=
  { cmd := s.cmd, status := statusWord s, src := s.src, len := s.len, dst := s.dst, outlen := s.outlen
    rngout := s.rngout, iv := s.iv, written := s.dmem }

/-- The fault record of a run of at most `k` steps: empty, or its first fault (70_reset_and_hazards.md R370). -/
def faultRecord (k : Nat) (s : State) : Option Fault :=
  match Sys2Proof.core.run k s with
  | .next _ => none
  | .fault r => some r
  | .refused _ => none

/-- `s` and `t` agree on all but what has no read path (60_exceptions.md R333): H and SHABUF, the key schedule, PENDING, and
the oracle's state. -/
abbrev SameButSecrets (s t : State) : Prop :=
  t = { s with
    sha := { s.sha with h := t.sha.h, shabuf := t.sha.shabuf, shabuflen := t.sha.shabuflen, shatotlen := t.sha.shatotlen }
    aes := { s.aes with nr := t.aes.nr, rk := t.aes.rk }
    pending := t.pending, rngHistory := t.rngHistory, rngAnswers := t.rngAnswers, resets := t.resets
    freeCount := t.freeCount }

/-- `s` and `t` agree on all but the oracle's state (40_command_cycle.md R133). -/
abbrev SameButOracle (s t : State) : Prop :=
  t = { s with rngHistory := t.rngHistory, rngAnswers := t.rngAnswers, resets := t.resets }

/-- The sequencer's turn is next and leaves the turns `ts`: no turn waits, or one of the sequencer stands first (the list of
turns is the model's choice, log 4). -/
abbrev SequencerNext (s : State) (ts : List Turn) : Prop :=
  (s.turns = [] ∧ ts = []) ∨ s.turns = .sequencer :: ts

/-- `a` is an unwritten byte of the source range of command `i` (40_command_cycle.md R124, 20_memory.md R69). -/
abbrev UnwrittenInSource (i : Instr) (s : State) (a : Nat) : Prop :=
  memByte s.dmem a = none ∧ ∃ r, sourceRange i s = some r ∧ r.1 ≤ a ∧ a < r.1 + r.2

/-- No condition on the machine as a whole keeps a command from running: CBC, and entropy found at reset. -/
abbrev State.runs (s : State) : Prop := s.cfg.chainMode = .cbc ∧ s.fatal = false

/-- The `n` DMEM bytes from `a` are written and are `m`. -/
abbrev BytesAt (mem : Memory) (a n : Nat) (m : List Byte) : Prop :=
  m.length = n ∧ ∀ i, i < n → memByte mem (a + i) = m[i]?

/-- Every DMEM byte outside `[a, a + n)` reads as before. -/
def KeptOutside (before after : Memory) (a n : Nat) : Prop :=
  ∀ x, x < a ∨ a + n ≤ x → memByte after x = memByte before x

/-- A command's completion with code `e` and `n` bytes written at DST (40_command_cycle.md R125 to R127). -/
abbrev CompletedWith (t : State) (e : ErrCode) (n : Nat) : Prop :=
  t.err = e ∧ t.outlen.toNat = n ∧ t.busy = false

/-- `t` is `s` after a rejection with code `e` (40_command_cycle.md R126, R127): ERR, OUTLEN and BUSY are written; PENDING,
which means nothing while BUSY = 0, and the model's count of free values are left open; nothing else changes. -/
abbrev RejectedWith (s t : State) (e : ErrCode) : Prop :=
  t = { s with err := e, outlen := 0#32, busy := false, pending := t.pending, freeCount := t.freeCount }

/-- The next turn is the host's access of the given kind at window offset `off` (20_memory.md R60). -/
abbrev NextRead (s : State) (width off : Nat) (ts : List Turn) : Prop :=
  s.turns = .host (.read width (s.cfg.coreBase + off)) :: ts ∧ off < 0x10000

/-- The next turn is the host's write of `v` at window offset `off` (20_memory.md R60). -/
abbrev NextWrite (s : State) (width off : Nat) (v : Word) (ts : List Turn) : Prop :=
  s.turns = .host (.write width (s.cfg.coreBase + off) v) :: ts ∧ off < 0x10000

/-- `b` ends in a PKCS7 trailer after `r`: `n` bytes equal to `n`, 1 ≤ n ≤ 16, and a length that is a multiple of 16
(43_pkcs7_chain.md R250, R251). -/
def PaddedForm (b r : List Byte) : Prop :=
  b.length % 16 = 0 ∧ ∃ n, 1 ≤ n ∧ n ≤ 16 ∧ b = r ++ List.replicate n (BitVec.ofNat 8 n)

/-- Block `j` of a byte string: bytes `16j` to `16j+15` (43_pkcs7_chain.md R252). -/
def blockOf (s : List Byte) (j : Nat) : List Byte := (s.drop (16 * j)).take 16

/-- Cell `s[r][c]` of an AES state through its block (42_aes.md R199). -/
def aesCell (s : AesState) (r c : Nat) : Byte := (blockOfState s).getD (r + 4 * c) 0#8

/-- A message with its whole final padding: 0x80, the least number of zero bytes that fills the last block, the 64-bit
big-endian bit length (41_sha256.md R153). -/
def shaPadded (m : List Byte) : List Byte :=
  m ++ [0x80#8] ++ List.replicate ((64 + 55 - m.length % 64) % 64) 0x00#8 ++ be64enc (BitVec.ofNat 64 (8 * m.length))

end Sys2Proof.Machine
end

