-- ==== Sys2Proof/Certificates/Slice0/Obligations.lean ====
section
/-! DEFINITION. The statements for the provers. Each says what the core does in the words of the spec's rules; the rule
each one formalises stands in its docstring and in OBLIGATIONS.json. -/

open Sys2Proof Sys2Proof.Machine

/-! ## Encoding and decoding -/

/-- 30_encoding.md R97, over all 2^32 words: a word is the command `i` exactly when it is the one word that encodes `i`. -/
def Obligations.DecodeExactlyInvertsEncode : Prop :=
  ∀ (w : Word) (i : Instr), decode w = .command i ↔ w = encode i

/-- 30_encoding.md R94 and R95: the words that are no command are those with a nonzero RSVD field or an OPCODE in one of
the unassigned ranges. -/
def Obligations.IllegalWordsAreReservedOrUnassigned : Prop :=
  ∀ w : Word, decode w = .illegal ↔
    w.toNat / 256 ≠ 0 ∨
    (let op := w.toNat % 256
     op = 0x00 ∨ (0x04 ≤ op ∧ op ≤ 0x0F) ∨ (0x13 ≤ op ∧ op ≤ 0x1F) ∨ (0x24 ≤ op ∧ op ≤ 0x2F) ∨ 0x31 ≤ op)

/-- 30_encoding.md R91, R92: one word of each family, bit 31 first, decodes to the command it stands for. -/
def Obligations.SampleWordsDecode : Prop :=
  decode 0b00000000000000000000000000000010#32 = .command .shaAbsorb ∧
  decode 0b00000000000000000000000000010000#32 = .command .aesKey ∧
  decode 0b00000000000000000000000000100010#32 = .command .encrypt ∧
  decode 0b00000000000000000000000000110000#32 = .command .rngGet

/-! ## Issue, the sequencer's step, completion -/

/-- 40_command_cycle.md R120 with 70_reset_and_hazards.md R364: outside a BUSY window, a host write of `v` to CMD latches `v`
in CMD and PENDING, sets BUSY and opens the window, and changes nothing else (the turn is used up); inside one it is a hazard
violation. That the window outlasts BUSY = 1, until a STATUS read has returned BUSY = 0, is the model's reading (log 10). -/
def Obligations.CmdWriteIssuesCommand : Prop :=
  ∀ (s : State) (v : Word) (ts : List Turn), NextWrite s 32 0x000 v ts → s.cfg.chainMode = .cbc →
    (s.busy = false → s.busyWindow = false →
      step s = .next { s with cmd := v, pending := v, busy := true, busyWindow := true, turns := ts }) ∧
    (s.busy = true ∨ s.busyWindow = true → step s = .fault (.hostHazard 0x000))

/-- 40_command_cycle.md R121, R122: when BUSY = 1 and PENDING decodes to `i`, the sequencer's step is `exec i`; when a
turn of the sequencer stands first it is used up, and with no turn waiting the step runs on the state as it is (the list of
turns is the model's choice, log 4). -/
def Obligations.StepRunsDecodedCommand : Prop :=
  ∀ (s : State) (i : Instr) (ts : List Turn),
    s.busy = true → decode s.pending = .command i →
    (s.turns = [] → step s = exec i s) ∧
    (s.turns = .sequencer :: ts → step s = exec i { s with turns := ts })

/-- 30_encoding.md R94, R95, 40_command_cycle.md R122: the sequencer's step on an illegal word, with entropy present, rejects it
with IllegalCommand and changes no other state. `ts` is what the step leaves of the turns (the model's choice, log 4). -/
def Obligations.IllegalWordIsRejected : Prop :=
  ∀ (s : State) (ts : List Turn), s.runs → s.busy = true → SequencerNext s ts → decode s.pending = .illegal →
    ∃ t, step s = .next t ∧ RejectedWith { s with turns := ts } t .illegalCommand

/-- 40_command_cycle.md R129: while FATAL = 1 the sequencer's step completes every command word, legal or not, with ERR = 4 and
OUTLEN = 0 and no other change. `ts` is what the step leaves of the turns (the model's choice, log 4). -/
def Obligations.FatalDominatesEveryWord : Prop :=
  ∀ (s : State) (ts : List Turn), s.cfg.chainMode = .cbc → s.fatal = true → s.busy = true → SequencerNext s ts →
    ∃ t, step s = .next t ∧ RejectedWith { s with turns := ts } t .entropySourceUnavailable ∧ errCode t.err = 4#4

/-- 40_command_cycle.md R132: with BUSY = 1 the sequencer's step always completes the command, or meets the model fault of an
unwritten byte of that command's source range (20_memory.md R69); it never waits. `ts` is what the step leaves of the turns
(the model's choice, log 4). -/
def Obligations.IssuedCommandAlwaysCompletes : Prop :=
  ∀ (s : State) (ts : List Turn), s.cfg.chainMode = .cbc → s.busy = true → SequencerNext s ts →
    (∃ t, step s = .next t ∧ t.busy = false ∧ t.turns = ts) ∨
    (∃ i a, decode s.pending = .command i ∧ step s = .fault (.unwrittenRead a) ∧ UnwrittenInSource i s a)

/-- 30_encoding.md R98, R99 with 40_command_cycle.md R120, R121 and R127: from an idle core, the host script that writes
a command word and WAITs (here finding the core busy `polls` times) ends, after its `polls + 3` turns, in what the command's
execution gives, with the BUSY window closed and the last STATUS value returned to the host (the list of turns and the
interleaving of a WAIT are the model's choices, logs 4 and 18; that the window ends with that read is its reading, log 10). -/
def Obligations.ScriptedCommandIssuesRunsAndWaits : Prop :=
  ∀ (s t : State) (i : Instr) (polls : Nat) (ts : List Turn),
    s.busy = false → s.busyWindow = false → s.turns = scriptCommand s.cfg polls i ++ ts →
    exec i (issue (encode i) s) = .next t →
    Sys2Proof.core.run (polls + 3) s =
      .next { t with busyWindow := false, rdata := statusWord t, turns := ts }

/-! ## The checks of a command (40_command_cycle.md R123) -/

/-- 40_command_cycle.md R124, 60_exceptions.md R328: a source or destination range that leaves DMEM rejects the command
with BoundsError, whatever its context and its length; the sums are on unbounded naturals, and UNPAD and DECRYPT are
checked against LEN bytes of output. -/
def Obligations.RangeOutsideDmemIsBoundsError : Prop :=
  ∀ s : State, s.runs →
    let size := s.cfg.dmemSize
    let src := s.src.toNat
    let len := s.len.toNat
    let dst := s.dst.toNat
    let rejected := fun i => ∃ t, exec i s = .next t ∧ RejectedWith s t .boundsError
    (size < src + len → rejected .shaAbsorb ∧ rejected .aesKey) ∧
    (size < dst + 32 → rejected .shaFinal) ∧
    (size < src + 16 ∨ size < dst + 16 → rejected .aesEnc ∧ rejected .aesDec) ∧
    (size < src + len ∨ size < dst + (len + 16 - len % 16) → rejected .pad ∧ rejected .encrypt) ∧
    (size < src + len ∨ size < dst + len → rejected .unpad ∧ rejected .decrypt)

/-- 60_exceptions.md R326: SHA_ABSORB and SHA_FINAL whose range fits are rejected with ContextFinalized while SHATAG is
Finalized. -/
def Obligations.FinalizedContextIsRejected : Prop :=
  ∀ s : State, s.runs → s.sha.shatag = .finalized →
    (s.src.toNat + s.len.toNat ≤ s.cfg.dmemSize →
      ∃ t, exec .shaAbsorb s = .next t ∧ RejectedWith s t .contextFinalized) ∧
    (s.dst.toNat + 32 ≤ s.cfg.dmemSize →
      ∃ t, exec .shaFinal s = .next t ∧ RejectedWith s t .contextFinalized)

/-- 60_exceptions.md R327: AES_ENC, AES_DEC, ENCRYPT and DECRYPT whose ranges fit are rejected with NoKey while no key
schedule is loaded; for DECRYPT this ranks before its length check. -/
def Obligations.MissingKeyIsRejected : Prop :=
  ∀ s : State, s.runs → s.aes.keyvalid = false →
    (s.src.toNat + 16 ≤ s.cfg.dmemSize → s.dst.toNat + 16 ≤ s.cfg.dmemSize →
      (∃ t, exec .aesEnc s = .next t ∧ RejectedWith s t .noKey) ∧
      (∃ t, exec .aesDec s = .next t ∧ RejectedWith s t .noKey)) ∧
    (s.src.toNat + s.len.toNat ≤ s.cfg.dmemSize →
      (s.dst.toNat + (s.len.toNat + 16 - s.len.toNat % 16) ≤ s.cfg.dmemSize →
        ∃ t, exec .encrypt s = .next t ∧ RejectedWith s t .noKey) ∧
      (s.dst.toNat + s.len.toNat ≤ s.cfg.dmemSize →
        ∃ t, exec .decrypt s = .next t ∧ RejectedWith s t .noKey))

/-- 60_exceptions.md R322, R324: AES_KEY rejects every length but 16, 24 and 32 with InvalidKeyLength and keeps the loaded
key; DECRYPT with a key rejects a LEN that is no multiple of 16 with InvalidCiphertextLength. No DMEM byte need be written. -/
def Obligations.IllegalLengthsAreRejected : Prop :=
  ∀ s : State, s.runs → s.src.toNat + s.len.toNat ≤ s.cfg.dmemSize →
    (s.len.toNat ≠ 16 ∧ s.len.toNat ≠ 24 ∧ s.len.toNat ≠ 32 →
      ∃ t, exec .aesKey s = .next t ∧ RejectedWith s t .invalidKeyLength ∧ t.aes = s.aes) ∧
    (s.dst.toNat + s.len.toNat ≤ s.cfg.dmemSize → s.aes.keyvalid = true → s.len.toNat % 16 ≠ 0 →
      ∃ t, exec .decrypt s = .next t ∧ RejectedWith s t .invalidCiphertextLength)

/-- 20_memory.md R69 with 40_command_cycle.md R123 step 6: a command that has passed its other checks and whose source
range holds an unwritten byte stops with `UnwrittenRead`; the fault's offset is the lowest such byte (the model's choice,
log 6). -/
def Obligations.UnwrittenSourceFaults : Prop :=
  ∀ (s : State) (u : Nat), s.runs → s.src.toNat ≤ u → memByte s.dmem u = none →
    (∀ x, s.src.toNat ≤ x → x < u → memByte s.dmem x ≠ none) →
    let faults := fun i => exec i s = .fault (.unwrittenRead u)
    (u < s.src.toNat + s.len.toNat → s.src.toNat + s.len.toNat ≤ s.cfg.dmemSize →
      (s.sha.shatag = .ready → faults .shaAbsorb) ∧
      (s.len.toNat = 16 ∨ s.len.toNat = 24 ∨ s.len.toNat = 32 → faults .aesKey) ∧
      (s.dst.toNat + (s.len.toNat + 16 - s.len.toNat % 16) ≤ s.cfg.dmemSize →
        faults .pad ∧ (s.aes.keyvalid = true → faults .encrypt)) ∧
      (s.dst.toNat + s.len.toNat ≤ s.cfg.dmemSize →
        faults .unpad ∧ (s.aes.keyvalid = true → s.len.toNat % 16 = 0 → faults .decrypt))) ∧
    (u < s.src.toNat + 16 → s.src.toNat + 16 ≤ s.cfg.dmemSize → s.dst.toNat + 16 ≤ s.cfg.dmemSize →
      s.aes.keyvalid = true → faults .aesEnc ∧ faults .aesDec)

/-- 60_exceptions.md R321 (its "raised by" column), R330: the codes each command can end with. -/
def Obligations.EachCommandRaisesOnlyItsErrors : Prop :=
  ∀ (i : Instr) (s t : State), exec i s = .next t →
    t.err = .ok ∨ (t.err = .entropySourceUnavailable ∧ s.fatal = true) ∨
    (t.err = .boundsError ∧ i ≠ .shaInit ∧ i ≠ .rngGet) ∨
    (t.err = .contextFinalized ∧ (i = .shaAbsorb ∨ i = .shaFinal)) ∨
    (t.err = .noKey ∧ (i = .aesEnc ∨ i = .aesDec ∨ i = .encrypt ∨ i = .decrypt)) ∨
    (t.err = .invalidKeyLength ∧ i = .aesKey) ∨
    (t.err = .invalidCiphertextLength ∧ i = .decrypt) ∨
    (t.err = .invalidPadding ∧ (i = .unpad ∨ i = .decrypt))

/-- 60_exceptions.md R339, 40_command_cycle.md R123, R124: a command under CBC answers a next state, or meets an unwritten byte of
its own source range, which lies in DMEM; nothing else stops it, and a command without a source range is never stopped. -/
def Obligations.CommandStopsOnlyOnUnwrittenSource : Prop :=
  ∀ (i : Instr) (s : State), s.cfg.chainMode = .cbc →
    (∃ t, exec i s = .next t) ∨
    (∃ a, exec i s = .fault (.unwrittenRead a) ∧ UnwrittenInSource i s a ∧ a < s.cfg.dmemSize)

/-! ## The commands -/

/-- 41_sha256.md R160: SHA_INIT. -/
def Obligations.ShaInitOpensFreshContext : Prop :=
  ∀ s : State, s.runs →
    ∃ t, exec .shaInit s = .next t ∧ CompletedWith t .ok 0 ∧
      t.sha.h = ⟨0x6a09e667#32, 0xbb67ae85#32, 0x3c6ef372#32, 0xa54ff53a#32,
                 0x510e527f#32, 0x9b05688c#32, 0x1f83d9ab#32, 0x5be0cd19#32⟩ ∧
      t.sha.shabuflen = 0 ∧ t.sha.shatotlen = 0#64 ∧ t.sha.shatag = .ready

/-- 41_sha256.md R161: SHA_ABSORB absorbs the LEN bytes at SRC, one after the other. -/
def Obligations.ShaAbsorbAbsorbsSourceBytes : Prop :=
  ∀ (s : State) (m : List Byte), s.runs → s.sha.shatag = .ready →
    s.src.toNat + s.len.toNat ≤ s.cfg.dmemSize → BytesAt s.dmem s.src.toNat s.len.toNat m →
    ∃ t, exec .shaAbsorb s = .next t ∧ CompletedWith t .ok 0 ∧ t.sha = m.foldl shaAbsorbByte s.sha

/-- 41_sha256.md R152: `AbsorbByte`. -/
def Obligations.AbsorbByteBuffersOrCompresses : Prop :=
  ∀ (c : HashContext) (x : Byte),
    let c' := shaAbsorbByte c x
    c'.shatotlen.toNat = (c.shatotlen.toNat + 1) % 2 ^ 64 ∧ c'.shatag = c.shatag ∧
    (∀ j : Fin 64, c'.shabuf.get j = if j = c.shabuflen then x else c.shabuf.get j) ∧
    (c.shabuflen.val < 63 → c'.shabuflen.val = c.shabuflen.val + 1 ∧ c'.h = c.h) ∧
    (c.shabuflen.val = 63 → c'.shabuflen = 0 ∧ c'.h = shaCompress c.h (c.shabuf.toList.take 63 ++ [x]))

/-- 41_sha256.md R162, R154: SHA_FINAL writes the digest, in big-endian word order, and closes the context. -/
def Obligations.ShaFinalWritesDigest : Prop :=
  ∀ s : State, s.runs → s.sha.shatag = .ready → s.dst.toNat + 32 ≤ s.cfg.dmemSize →
    ∃ t, exec .shaFinal s = .next t ∧ CompletedWith t .ok 32 ∧
      t.sha.h = shaFinalHash s.sha ∧ t.sha.shatag = .finalized ∧
      BytesAt t.dmem s.dst.toNat 32
        ([t.sha.h.a, t.sha.h.b, t.sha.h.c, t.sha.h.d, t.sha.h.e, t.sha.h.f, t.sha.h.g, t.sha.h.h].flatMap fun w =>
          [w.extractLsb' 24 8, w.extractLsb' 16 8, w.extractLsb' 8 8, w.extractLsb' 0 8])

/-- 41_sha256.md R153: the final step compresses one block when r ≤ 55 and two when r ≥ 56. -/
def Obligations.FinalStepCompressesOneOrTwoBlocks : Prop :=
  ∀ c : HashContext,
    let r := c.shabuflen.val
    let tail := fun z => c.shabuf.toList.take r ++ [0x80#8] ++ List.replicate z 0x00#8 ++
      be64enc (BitVec.ofNat 64 (8 * c.shatotlen.toNat))
    (r ≤ 55 → (tail (55 - r)).length = 64 ∧ shaFinalHash c = shaCompress c.h (tail (55 - r))) ∧
    (56 ≤ r → (tail (119 - r)).length = 128 ∧
      shaFinalHash c = shaCompress (shaCompress c.h ((tail (119 - r)).take 64)) ((tail (119 - r)).drop 64))

/-- 41_sha256.md R149: the message schedule. -/
def Obligations.MessageScheduleRecurrence : Prop :=
  ∀ (b : List Byte) (t : Nat),
    let w := fun k => (shaSchedule b).getD k 0#32
    (shaSchedule b).length = 64 ∧
    (t < 16 → w t = be32 b (4 * t)) ∧
    (16 ≤ t → t < 64 → w t = shaSmall1 (w (t - 2)) + w (t - 7) + shaSmall0 (w (t - 15)) + w (t - 16))

/-- 42_aes.md R220: AES_KEY with a legal length loads the expanded key. -/
def Obligations.AesKeyLoadsExpandedKey : Prop :=
  ∀ (s : State) (k : List Byte), s.runs → s.src.toNat + s.len.toNat ≤ s.cfg.dmemSize →
    s.len.toNat = 16 ∨ s.len.toNat = 24 ∨ s.len.toNat = 32 → BytesAt s.dmem s.src.toNat s.len.toNat k →
    ∃ t, exec .aesKey s = .next t ∧ CompletedWith t .ok 0 ∧
      t.aes.keyvalid = true ∧ t.aes.nk = s.len.toNat / 4 ∧ t.aes.nr = t.aes.nk + 6 ∧
      (∀ i, i < 4 * (t.aes.nr + 1) → t.aes.rk.toList[i]? = (keyExpansion k)[i]?)

/-- 42_aes.md R198: the key schedule of a 16-, 24- or 32-byte key. -/
def Obligations.KeyExpansionRecurrence : Prop :=
  ∀ (k : List Byte) (i : Nat), k.length = 16 ∨ k.length = 24 ∨ k.length = 32 →
    let nk := k.length / 4
    let w := fun j => (keyExpansion k).getD j 0#32
    (keyExpansion k).length = 4 * (nk + 6 + 1) ∧
    (i < nk → w i = be32 k (4 * i)) ∧
    (nk ≤ i → i < 4 * (nk + 6 + 1) →
      w i = w (i - nk) ^^^
        (if i % nk = 0 then subWord (rotWord (w (i - 1))) ^^^ ((aesRC (i / nk)).setWidth 32 <<< 24)
         else if nk = 8 ∧ i % 8 = 4 then subWord (w (i - 1))
         else w (i - 1)))

/-- 42_aes.md R221: AES_ENC, with any LEN and any overlap of source and destination. -/
def Obligations.AesEncWritesCiphertextBlock : Prop :=
  ∀ (s : State) (p : List Byte), s.runs → s.aes.keyvalid = true →
    s.src.toNat + 16 ≤ s.cfg.dmemSize → s.dst.toNat + 16 ≤ s.cfg.dmemSize → BytesAt s.dmem s.src.toNat 16 p →
    ∃ t, exec .aesEnc s = .next t ∧ CompletedWith t .ok 16 ∧
      BytesAt t.dmem s.dst.toNat 16 (aesCipher s.aes.rk.toList s.aes.nr p)

/-- 42_aes.md R222: AES_DEC, with any LEN and any overlap of source and destination. -/
def Obligations.AesDecWritesPlaintextBlock : Prop :=
  ∀ (s : State) (c : List Byte), s.runs → s.aes.keyvalid = true →
    s.src.toNat + 16 ≤ s.cfg.dmemSize → s.dst.toNat + 16 ≤ s.cfg.dmemSize → BytesAt s.dmem s.src.toNat 16 c →
    ∃ t, exec .aesDec s = .next t ∧ CompletedWith t .ok 16 ∧
      BytesAt t.dmem s.dst.toNat 16 (aesInvCipher s.aes.rk.toList s.aes.nr c)

/-- 43_pkcs7_chain.md R250, R254: PAD writes the source bytes and then padLen bytes of value padLen, 1 ≤ padLen ≤ 16.
`DMEM_SIZE` is at most 0xF000 (00_scope.md R7). -/
def Obligations.PadAppendsPkcs7Trailer : Prop :=
  ∀ (s : State) (m : List Byte), s.runs → s.cfg.dmemSize ≤ 0xF000 →
    let len := s.len.toNat
    let padLen := 16 - len % 16
    s.src.toNat + len ≤ s.cfg.dmemSize → s.dst.toNat + (len + padLen) ≤ s.cfg.dmemSize →
    BytesAt s.dmem s.src.toNat len m →
    1 ≤ padLen ∧ padLen ≤ 16 ∧
    ∃ t, exec .pad s = .next t ∧ CompletedWith t .ok (len + padLen) ∧
      BytesAt t.dmem s.dst.toNat (len + padLen) (m ++ List.replicate padLen (BitVec.ofNat 8 padLen))

/-- 43_pkcs7_chain.md R251, R255: UNPAD of a well-padded buffer writes it without its trailer. -/
def Obligations.UnpadStripsTrailer : Prop :=
  ∀ (s : State) (b r : List Byte), s.runs →
    s.src.toNat + s.len.toNat ≤ s.cfg.dmemSize → s.dst.toNat + s.len.toNat ≤ s.cfg.dmemSize →
    BytesAt s.dmem s.src.toNat s.len.toNat b → PaddedForm b r →
    ∃ t, exec .unpad s = .next t ∧ CompletedWith t .ok r.length ∧ BytesAt t.dmem s.dst.toNat r.length r

/-- 43_pkcs7_chain.md R251, R255, R257, 60_exceptions.md R323: UNPAD of a buffer that is not well padded (the empty one and one
whose length is no multiple of 16 among them), and DECRYPT of a ciphertext whose chain is not, are rejected with
InvalidPadding and write nothing. -/
def Obligations.MalformedPaddingIsRejected : Prop :=
  ∀ (s : State) (b : List Byte), s.runs →
    s.src.toNat + s.len.toNat ≤ s.cfg.dmemSize → s.dst.toNat + s.len.toNat ≤ s.cfg.dmemSize →
    BytesAt s.dmem s.src.toNat s.len.toNat b →
    ((∀ r, ¬ PaddedForm b r) → ∃ t, exec .unpad s = .next t ∧ RejectedWith s t .invalidPadding) ∧
    (s.aes.keyvalid = true → s.len.toNat % 16 = 0 →
      (∀ r, ¬ PaddedForm (chainDec s.aes.rk.toList s.aes.nr s.iv.toList b) r) →
      ∃ t, exec .decrypt s = .next t ∧ RejectedWith s t .invalidPadding)

/-- 43_pkcs7_chain.md R256, 44_rng.md R291: ENCRYPT draws 16 bytes, puts them in the IV register in draw order, and writes the
chain of the padded source under them; RNGOUT is not written. That an injected answer
(R295) comes first and is used up, and that the answer is else the free value of the count of resets and the history before
it, is the model's choice (log 7). -/
def Obligations.EncryptDrawsIvAndWritesChain : Prop :=
  ∀ (s : State) (m : List Byte), s.runs → s.cfg.dmemSize ≤ 0xF000 → s.aes.keyvalid = true →
    let len := s.len.toNat
    let padLen := 16 - len % 16
    s.src.toNat + len ≤ s.cfg.dmemSize → s.dst.toNat + (len + padLen) ≤ s.cfg.dmemSize →
    BytesAt s.dmem s.src.toNat len m →
    ∃ t iv, exec .encrypt s = .next t ∧ CompletedWith t .ok (len + padLen) ∧
      iv.length = 16 ∧ t.rngHistory = s.rngHistory ++ iv ∧ t.iv.toList = iv ∧ t.rngout = s.rngout ∧
      (∀ j, j < 16 →
        iv[j]? = some (s.rngAnswers.getD j (Config.rngOracle s.resets (s.rngHistory ++ iv.take j)))) ∧
      t.rngAnswers = s.rngAnswers.drop 16 ∧
      BytesAt t.dmem s.dst.toNat (len + padLen)
        (chainEnc s.aes.rk.toList s.aes.nr iv (m ++ List.replicate padLen (BitVec.ofNat 8 padLen)))

/-- 43_pkcs7_chain.md R257: DECRYPT of a ciphertext whose chain is well padded writes the plaintext and keeps the IV register. -/
def Obligations.DecryptWritesUnpaddedChain : Prop :=
  ∀ (s : State) (c r : List Byte), s.runs → s.aes.keyvalid = true →
    s.len.toNat % 16 = 0 →
    s.src.toNat + s.len.toNat ≤ s.cfg.dmemSize → s.dst.toNat + s.len.toNat ≤ s.cfg.dmemSize →
    BytesAt s.dmem s.src.toNat s.len.toNat c →
    PaddedForm (chainDec s.aes.rk.toList s.aes.nr s.iv.toList c) r →
    ∃ t, exec .decrypt s = .next t ∧ CompletedWith t .ok r.length ∧ BytesAt t.dmem s.dst.toNat r.length r ∧ t.iv = s.iv

/-- 43_pkcs7_chain.md R252, R253: block j of the chain is the cipher of plaintext block j combined with the ciphertext block
before it, or with the IV; block j of the reversed chain is the inverse cipher of ciphertext block j, combined with the same;
the reversed chain undoes the chain. -/
def Obligations.ChainBlockRules : Prop :=
  ∀ (w : List Word) (nr : Nat) (iv x : List Byte) (k : Nat), iv.length = 16 → x.length = 16 * k →
    let c := chainEnc w nr iv x
    let p := chainDec w nr iv x
    c.length = 16 * k ∧ p.length = 16 * k ∧
    (∀ j, j < k →
      blockOf c j = aesCipher w nr (xorBytes (blockOf x j) (if j = 0 then iv else blockOf c (j - 1))) ∧
      blockOf p j = xorBytes (aesInvCipher w nr (blockOf x j)) (if j = 0 then iv else blockOf x (j - 1))) ∧
    chainDec w nr iv c = x

/-- 44_rng.md R291, R292: RNG_GET makes one draw and leaves it, zero-extended, in RNGOUT. That an injected answer (R295) comes
first and is used up, and that the byte is else the free value of the count of resets and the history, is the model's choice
(log 7). -/
def Obligations.RngGetReturnsOneDraw : Prop :=
  ∀ s : State, s.runs →
    ∃ t x, exec .rngGet s = .next t ∧ CompletedWith t .ok 0 ∧
      t.rngHistory = s.rngHistory ++ [x] ∧ t.rngout = x.setWidth 32 ∧
      (s.rngAnswers = [] → x = Config.rngOracle s.resets s.rngHistory) ∧
      (∀ y ys, s.rngAnswers = y :: ys → x = y ∧ t.rngAnswers = ys)

/-! ## What commands leave unchanged -/

/-- 30_encoding.md R92 (its "writes" column), 40_command_cycle.md R130, R38 and R46 of 10_state.md: in any command that
answers a next state, only the units its row names change. OUTLEN, ERR, BUSY, PENDING and the count of free values belong to
the completion of every command (R125 to R127). -/
def Obligations.OnlyNamedUnitsChange : Prop :=
  ∀ (i : Instr) (s t : State), exec i s = .next t →
    t.cfg = s.cfg ∧ t.cmd = s.cmd ∧ t.src = s.src ∧ t.len = s.len ∧ t.dst = s.dst ∧
    t.fatal = s.fatal ∧ t.resets = s.resets ∧ t.busyWindow = s.busyWindow ∧ t.rdata = s.rdata ∧ t.turns = s.turns ∧
    (i ≠ .shaInit → i ≠ .shaAbsorb → i ≠ .shaFinal → t.sha = s.sha) ∧
    (i ≠ .aesKey → t.aes = s.aes) ∧
    (i ≠ .encrypt → t.iv = s.iv) ∧
    (i ≠ .rngGet → t.rngout = s.rngout) ∧
    (i ≠ .rngGet → i ≠ .encrypt → t.rngHistory = s.rngHistory ∧ t.rngAnswers = s.rngAnswers)

/-- 20_memory.md R78, 40_command_cycle.md R125, R126: a command changes no DMEM byte outside the OUTLEN bytes from DST that
it reports; SHA_INIT, SHA_ABSORB, AES_KEY, RNG_GET and every rejected command change no DMEM byte at all. `DMEM_SIZE` is at
most 0xF000 (00_scope.md R7). -/
def Obligations.DmemKeptOutsideReportedOutput : Prop :=
  ∀ (i : Instr) (s t : State), s.cfg.dmemSize ≤ 0xF000 → exec i s = .next t →
    KeptOutside s.dmem t.dmem s.dst.toNat t.outlen.toNat ∧
    (i = .shaInit ∨ i = .shaAbsorb ∨ i = .aesKey ∨ i = .rngGet ∨ t.err ≠ .ok → ∀ a, memByte t.dmem a = memByte s.dmem a)

/-- 40_command_cycle.md R126: a command that ends with an error changes nothing but ERR, OUTLEN and BUSY, and draws nothing. -/
def Obligations.RejectedCommandChangesNothing : Prop :=
  ∀ (i : Instr) (s t : State), exec i s = .next t → t.err ≠ .ok → RejectedWith s t t.err

/-- 10_state.md R34, R35, 41_sha256.md R160 to R162: SHATAG changes only by a successful SHA_INIT, to Ready, and by a
successful SHA_FINAL, to Finalized. -/
def Obligations.ContextLifecycle : Prop :=
  ∀ (i : Instr) (s t : State), exec i s = .next t → t.sha.shatag ≠ s.sha.shatag →
    t.err = .ok ∧ ((i = .shaInit ∧ t.sha.shatag = .ready) ∨ (i = .shaFinal ∧ t.sha.shatag = .finalized))

/-- 40_command_cycle.md R133: every command but RNG_GET and ENCRYPT ends the same way whatever the oracle holds. -/
def Obligations.CommandsIgnoreTheOracle : Prop :=
  ∀ (i : Instr) (s s' : State), i ≠ .rngGet → i ≠ .encrypt → SameButOracle s s' →
    (∀ t, exec i s = .next t → ∃ t', exec i s' = .next t' ∧ SameButOracle t t') ∧
    (∀ f, exec i s = .fault f → exec i s' = .fault f)

/-! ## The host's accesses -/

/-- 10_state.md R25: the fields of STATUS and its reserved bits. -/
def Obligations.StatusFieldsReadTheirState : Prop :=
  ∀ s : State,
    let v := statusWord s
    v.getLsbD 0 = s.busy ∧ v.getLsbD 1 = s.fatal ∧ v.extractLsb' 2 6 = 0#6 ∧
    v.extractLsb' 8 4 = errCode s.err ∧ v.extractLsb' 12 4 = 0#4 ∧
    v.getLsbD 16 = decide (s.sha.shatag = .ready) ∧ v.getLsbD 17 = s.aes.keyvalid ∧ v.extractLsb' 20 12 = 0#12 ∧
    (s.aes.keyvalid = false → v.extractLsb' 18 2 = 0b00#2) ∧
    (s.aes.keyvalid = true →
      (s.aes.nk = 4 → v.extractLsb' 18 2 = 0b00#2) ∧ (s.aes.nk = 6 → v.extractLsb' 18 2 = 0b01#2) ∧
      (s.aes.nk = 8 → v.extractLsb' 18 2 = 0b10#2)) ∧
    v.extractLsb' 18 2 ≠ 0b11#2

/-- 70_reset_and_hazards.md R364: in a BUSY window every access but a 32-bit read of STATUS is the fault `HostHazard`. Two
clauses are the model's reading: the window outlasts BUSY = 1, until a STATUS read has returned BUSY = 0 (log 10), and
`HostHazard` ranks before `BusFault` for a misaligned, wrong-width or reserved access in it, which no rule orders (log 11). -/
def Obligations.AccessInBusyWindowIsHazard : Prop :=
  ∀ (s : State) (width off : Nat) (v : Word) (ts : List Turn), s.cfg.chainMode = .cbc →
    s.busy = true ∨ s.busyWindow = true →
    (NextWrite s width off v ts → step s = .fault (.hostHazard off)) ∧
    (NextRead s width off ts → ¬ (width = 32 ∧ off = 0x004) → step s = .fault (.hostHazard off))

/-- 70_reset_and_hazards.md R364, 20_memory.md R70: a 32-bit STATUS read is allowed at all times, returns STATUS, changes
nothing else, and closes the BUSY window exactly when it returns BUSY = 0 (that the window ends there, and not at completion,
is the model's reading, log 10; the field of the returned value is the model's, log 13). -/
def Obligations.StatusReadClosesBusyWindow : Prop :=
  ∀ (s : State) (ts : List Turn), s.cfg.chainMode = .cbc → NextRead s 32 0x004 ts →
    step s = .next { s with rdata := statusWord s, busyWindow := s.busy, turns := ts }

/-- 20_memory.md R63, R64, R67, R68, 10_state.md R47: a misaligned access, one of a width the target does not take, and one
to a reserved offset are the fault `BusFault`, for reads and writes alike. -/
def Obligations.IllegalAccessIsBusFault : Prop :=
  ∀ (s : State) (width off : Nat) (v : Word) (ts : List Turn), s.cfg.chainMode = .cbc →
    s.busy = false → s.busyWindow = false →
    (off < 0x1000 ∧ (width ≠ 32 ∨ off % 4 ≠ 0 ∨ off = 0x01C ∨ 0x030 ≤ off)) ∨
    (0x1000 ≤ off ∧ ((width ≠ 8 ∧ width ≠ 16 ∧ width ≠ 32) ∨ off % (width / 8) ≠ 0 ∨
      0x1000 + s.cfg.dmemSize < off + width / 8)) →
    (NextWrite s width off v ts → step s = .fault (.busFault off width)) ∧
    (NextRead s width off ts → step s = .fault (.busFault off width))

/-- 10_state.md R26 to R29, R45, R46, 20_memory.md R70: host writes of the registers other than CMD: SRC, LEN and DST store
the word, STATUS, OUTLEN and RNGOUT ignore it, and IVk stores byte j of the word in IV[4k+j]; nothing else changes. -/
def Obligations.RegisterWritesStoreOrAreIgnored : Prop :=
  ∀ (s : State) (v : Word) (ts : List Turn), s.cfg.chainMode = .cbc → s.busy = false → s.busyWindow = false →
    (NextWrite s 32 0x008 v ts → step s = .next { s with src := v, turns := ts }) ∧
    (NextWrite s 32 0x00C v ts → step s = .next { s with len := v, turns := ts }) ∧
    (NextWrite s 32 0x010 v ts → step s = .next { s with dst := v, turns := ts }) ∧
    (NextWrite s 32 0x004 v ts ∨ NextWrite s 32 0x014 v ts ∨ NextWrite s 32 0x018 v ts →
      step s = .next { s with turns := ts }) ∧
    (∀ k, k < 4 → NextWrite s 32 (0x020 + 4 * k) v ts →
      ∃ iv, step s = .next { s with iv := iv, turns := ts } ∧
        ∀ j, j < 16 → iv.toList[j]? =
          if j / 4 = k then some (v.extractLsb' (8 * (j % 4)) 8) else s.iv.toList[j]?)

/-- 10_state.md R23, R24 to R29, R45, R46: host reads of the registers other than STATUS; a read changes nothing in
the core (the field of the returned value is the model's, log 13). -/
def Obligations.RegisterReadsReturnTheirValue : Prop :=
  ∀ (s : State) (ts : List Turn), s.cfg.chainMode = .cbc → s.busy = false → s.busyWindow = false →
    let reads := fun off v => NextRead s 32 off ts → step s = .next { s with rdata := v, turns := ts }
    reads 0x000 s.cmd ∧ reads 0x008 s.src ∧ reads 0x00C s.len ∧ reads 0x010 s.dst ∧
    reads 0x014 s.outlen ∧ reads 0x018 s.rngout ∧
    (∀ k, k < 4 → reads (0x020 + 4 * k)
      (s.iv.toList.getD (4 * k + 3) 0#8 ++ s.iv.toList.getD (4 * k + 2) 0#8 ++
       s.iv.toList.getD (4 * k + 1) 0#8 ++ s.iv.toList.getD (4 * k) 0#8))

/-- 20_memory.md R63, R65: a 32-bit host write of `v` at DMEM offset `a` stores byte j of `v` at `a + j`; the bytes beside
it and the rest of the state are unchanged. 8-bit and 16-bit writes store the low bytes likewise:
that a narrow write carries its value in the low bits is the model's choice (log 13). -/
def Obligations.DmemWriteIsLittleEndian : Prop :=
  ∀ (s : State) (a n : Nat) (v : Word) (ts : List Turn), s.cfg.chainMode = .cbc → s.busy = false → s.busyWindow = false →
    n = 1 ∨ n = 2 ∨ n = 4 → a % n = 0 → a + n ≤ s.cfg.dmemSize →
    NextWrite s (8 * n) (0x1000 + a) v ts →
    ∃ mem, step s = .next { s with dmem := mem, turns := ts } ∧
      (∀ j, j < n → memByte mem (a + j) = some (v.extractLsb' (8 * j) 8)) ∧ KeptOutside s.dmem mem a n

/-- 20_memory.md R65, R69: an aligned host read of written DMEM bytes returns `Σ DMEM[a+j]·2^(8j)` and changes nothing in
the core; one that covers an unwritten byte is the fault `UnwrittenRead` of an unwritten byte that it covers. The field of the
returned value is the model's (log 13). -/
def Obligations.DmemReadIsLittleEndian : Prop :=
  ∀ (s : State) (a n : Nat) (ts : List Turn), s.cfg.chainMode = .cbc → s.busy = false → s.busyWindow = false →
    n = 1 ∨ n = 2 ∨ n = 4 → a % n = 0 → a + n ≤ s.cfg.dmemSize → NextRead s (8 * n) (0x1000 + a) ts →
    (∀ m, BytesAt s.dmem a n m →
      ∃ v, step s = .next { s with rdata := v, turns := ts } ∧
        v.toNat = ((List.range n).map fun j => (m.getD j 0#8).toNat * 2 ^ (8 * j)).sum) ∧
    ((∃ j, j < n ∧ memByte s.dmem (a + j) = none) →
      ∃ u, step s = .fault (.unwrittenRead u) ∧ a ≤ u ∧ u < a + n ∧ memByte s.dmem u = none)

/-- 60_exceptions.md R333: no host access tells apart two machines that differ only in the hash context's H, SHABUF, SHABUFLEN and
SHATOTLEN, in NR and the key schedule, in PENDING and in the oracle's state (and the model's count of free values), and it leaves them
differing in nothing else. The field of the returned value is the model's (log 13). -/
def Obligations.HostCannotReadSecrets : Prop :=
  ∀ (s s' : State) (a : HostAccess) (ts : List Turn), s.turns = .host a :: ts → SameButSecrets s s' →
    (∀ t, step s = .next t → ∃ t', step s' = .next t' ∧ SameButSecrets t t' ∧ t'.rdata = t.rdata) ∧
    (∀ f, step s = .fault f → step s' = .fault f)

/-! ## Reset and configuration -/

/-- 70_reset_and_hazards.md R360, R361: the reset state under any configuration and any draw. -/
def Obligations.ResetStateIsAsSpecified : Prop :=
  ∀ (cfg : Config) (present : Bool),
    let s := State.afterReset cfg present
    s.cmd = 0#32 ∧ s.src = 0#32 ∧ s.len = 0#32 ∧ s.dst = 0#32 ∧ s.outlen = 0#32 ∧ s.rngout = 0#32 ∧
    (∀ j, j < 16 → s.iv.toList[j]? = some 0x00#8) ∧ s.busy = false ∧ s.sha.shatag = .finalized ∧ s.aes.keyvalid = false ∧
    (∀ a, memByte s.dmem a = none) ∧ s.fatal = !present ∧ errCode s.err = (if present then 0#4 else 4#4) ∧
    statusWord s = (if present then 0x00000000#32 else 0x00000402#32)

/-- 70_reset_and_hazards.md R360, 44_rng.md R291, R294: a reset of a running machine, whatever the core was doing. That the
reset also closes the BUSY window is the model's reading (log 10), and how it treats the model's own fields is log 16. -/
def Obligations.PlatformResetRestoresResetState : Prop :=
  ∀ (s : State) (present : Bool) (ts : List Turn), s.cfg.chainMode = .cbc → s.turns = .reset present :: ts →
    ∃ t, step s = .next t ∧ observe t = observe (State.afterReset s.cfg present) ∧
      t.cfg = s.cfg ∧ t.fatal = (!present) ∧ t.busy = false ∧ t.busyWindow = false ∧
      t.sha.shatag = .finalized ∧ t.aes.keyvalid = false ∧ (∀ a, memByte t.dmem a = none) ∧
      t.rngHistory = [] ∧ t.turns = ts

/-- 00_scope.md R7, 60_exceptions.md R339: a machine with legal parameters starts in its reset state; a `CHAIN_MODE` other than
CBC is refused before reset, and no step and no command runs under one (the last clause is the model's reading, log 14). -/
def Obligations.ConfigurationStartsOrIsRefused : Prop :=
  ∀ (s : State) (cfg : Config) (present : Bool) (i : Instr) (name : String),
    (cfg.coreBase % 0x10000 = 0 → cfg.dmemSize % 16 = 0 → 64 ≤ cfg.dmemSize → cfg.dmemSize ≤ 0xF000 →
      cfg.chainMode = .cbc → State.start cfg present = .next (State.afterReset cfg present)) ∧
    (cfg.chainMode = .other name → State.start cfg present = .fault (.configRefused (.other name))) ∧
    (s.cfg.chainMode = .other name →
      step s = .fault (.configRefused (.other name)) ∧ exec i s = .fault (.configRefused (.other name)))

/-! ## Invariants -/

/-- The invariant holds after every reset. It rests on no value that 70_reset_and_hazards.md R360 leaves unspecified (log 2). -/
def Obligations.InvariantHoldsAtReset : Prop :=
  ∀ (cfg : Config) (present : Bool), (State.afterReset cfg present).Inv

/-- Every step keeps the invariant: DMEM's canonical form and its bound, SHABUFLEN = SHATOTLEN mod 64 while Ready (10_state.md
R32, R33), NR = NK + 6 of a loaded key (R36), RNGOUT[31:8] = 0 (R45), OUTLEN within DMEM, BUSY inside the BUSY window,
PENDING = CMD while BUSY, and the idleness of a FATAL core (40_command_cycle.md R129). -/
def Obligations.EveryStepKeepsTheInvariant : Prop :=
  ∀ s t : State, s.Inv → step s = .next t → t.Inv

/-- 10_state.md R39, 00_scope.md R7: every step keeps the parameters, and no step but a reset changes FATAL. -/
def Obligations.OnlyResetChangesFatal : Prop :=
  ∀ s t : State, step s = .next t →
    t.cfg = s.cfg ∧ ((∃ present ts, s.turns = .reset present :: ts) ∨ t.fatal = s.fatal)

/-! ## Laws of the algorithms -/

/-- 42_aes.md R192, R193: SBOX is the affine map of the inverse, and INVSBOX[y] is the unique x with SBOX[x] = y. -/
def Obligations.SboxIsAffineOfInverse : Prop :=
  (∀ b : Byte, b ≠ 0x00#8 → gfMul b (gfInv b) = 0x01#8) ∧
  (∀ (b : Byte) (i : Fin 8), (sboxAffine b).getLsbD i.val =
    (b.getLsbD i.val ^^ b.getLsbD ((i.val + 4) % 8) ^^ b.getLsbD ((i.val + 5) % 8) ^^ b.getLsbD ((i.val + 6) % 8) ^^
      b.getLsbD ((i.val + 7) % 8) ^^ (0x63#8).getLsbD i.val)) ∧
  (∀ x : Byte, sbox x = sboxAffine (gfInv x)) ∧ (∀ x : Byte, invSbox (sbox x) = x) ∧
  (∀ y : Byte, sbox (invSbox y) = y)

/-- 42_aes.md R202 to R206: the shifts cell by cell, and each inverse transform undoes its transform. -/
def Obligations.InverseTransformsUndoTransforms : Prop :=
  ∀ s : AesState,
    (∀ r c, r < 4 → c < 4 → aesCell (shiftRows s) r c = aesCell s r ((c + r) % 4)) ∧
    (∀ r c, r < 4 → c < 4 → aesCell (invShiftRows s) r ((c + r) % 4) = aesCell s r c) ∧
    invSubBytes (subBytes s) = s ∧ invShiftRows (shiftRows s) = s ∧ invMixColumns (mixColumns s) = s

/-- 42_aes.md R209: the round trip, in both orders, for every schedule, every round count and every block. -/
def Obligations.AesRoundTrip : Prop :=
  ∀ (w : List Word) (nr : Nat) (b : List Byte), b.length = 16 →
    aesInvCipher w nr (aesCipher w nr b) = b ∧ aesCipher w nr (aesInvCipher w nr b) = b

/-- 41_sha256.md R153, R163 (S1 of 95_test_vectors.md): hashing a message byte by byte through the context gives what compressing
the blocks of the whole padded message gives. -/
def Obligations.StreamingHashEqualsOneShotHash : Prop :=
  ∀ (n : Nat) (m : List Byte),
    (shaPadded m).length % 64 = 0 ∧
    shaFinalHash (shaAbsorbBytes (shaInitContext n) m) =
      (blocks64 ((shaPadded m).length / 64) (shaPadded m)).foldl shaCompress shaH0

/-- 41_sha256.md R163: SHA_INIT; SHA_ABSORB(m1); SHA_ABSORB(m2); SHA_FINAL writes the digest that SHA_INIT; SHA_ABSORB(m1 ++ m2);
SHA_FINAL writes, wherever the pieces lie in DMEM. -/
def Obligations.DigestIndependentOfChunking : Prop :=
  ∀ (s : State) (m1 m2 : List Byte) (src1 len1 src2 len2 src len : Word), s.runs →
    src1.toNat + len1.toNat ≤ s.cfg.dmemSize → BytesAt s.dmem src1.toNat len1.toNat m1 →
    src2.toNat + len2.toNat ≤ s.cfg.dmemSize → BytesAt s.dmem src2.toNat len2.toNat m2 →
    src.toNat + len.toNat ≤ s.cfg.dmemSize → BytesAt s.dmem src.toNat len.toNat (m1 ++ m2) →
    s.dst.toNat + 32 ≤ s.cfg.dmemSize →
    ∃ s0 t1 t2 t3 u1 u2 digest,
      exec .shaInit s = .next s0 ∧
      exec .shaAbsorb { s0 with src := src1, len := len1 } = .next t1 ∧
      exec .shaAbsorb { t1 with src := src2, len := len2 } = .next t2 ∧
      exec .shaFinal t2 = .next t3 ∧
      exec .shaAbsorb { s0 with src := src, len := len } = .next u1 ∧
      exec .shaFinal u1 = .next u2 ∧
      BytesAt t3.dmem s.dst.toNat 32 digest ∧ BytesAt u2.dmem s.dst.toNat 32 digest

/-- 43_pkcs7_chain.md R259: ENCRYPT of `m` and then DECRYPT of what it wrote, with the IV register unchanged between them,
gives back `m` with OUTLEN = len(m), under every oracle. `DMEM_SIZE` is at most 0xF000 (00_scope.md R7). -/
def Obligations.DecryptRestoresEncrypted : Prop :=
  ∀ (s : State) (m : List Byte) (dst' : Word), s.runs → s.cfg.dmemSize ≤ 0xF000 → s.aes.keyvalid = true →
    let len := s.len.toNat
    let n := len + 16 - len % 16
    s.src.toNat + len ≤ s.cfg.dmemSize → s.dst.toNat + n ≤ s.cfg.dmemSize → dst'.toNat + n ≤ s.cfg.dmemSize →
    BytesAt s.dmem s.src.toNat len m →
    ∃ t u, exec .encrypt s = .next t ∧ CompletedWith t .ok n ∧
      exec .decrypt { t with src := s.dst, len := t.outlen, dst := dst' } = .next u ∧ CompletedWith u .ok len ∧
      BytesAt u.dmem dst'.toNat len m

/-- 43_pkcs7_chain.md R259: UNPAD of what PAD wrote gives back the bytes. -/
def Obligations.UnpadRestoresPadded : Prop :=
  ∀ (s : State) (m : List Byte) (dst' : Word), s.runs → s.cfg.dmemSize ≤ 0xF000 →
    let len := s.len.toNat
    let n := len + 16 - len % 16
    s.src.toNat + len ≤ s.cfg.dmemSize → s.dst.toNat + n ≤ s.cfg.dmemSize → dst'.toNat + n ≤ s.cfg.dmemSize →
    BytesAt s.dmem s.src.toNat len m →
    ∃ t u, exec .pad s = .next t ∧ CompletedWith t .ok n ∧
      exec .unpad { t with src := s.dst, len := t.outlen, dst := dst' } = .next u ∧ CompletedWith u .ok len ∧
      BytesAt u.dmem dst'.toNat len m
end

