-- ==== Sys2Proof/Laws/Algorithms.lean ====
section
/-! SUPPORT. Laws of the two algorithms and of the padding: lengths, the counters of an absorb, the field's linearity, and
what `pkcs7Unpad` answers. -/

namespace Sys2Proof.Machine

/-! ## SHA-256 -/

theorem be32enc_length (w : Word) : (be32enc w).length = 4 := rfl

theorem be64enc_length (v : BitVec 64) : (be64enc v).length = 8 := rfl

theorem shaDigest_length (h : HashWords) : (shaDigest h).length = 32 := rfl

theorem shaTail_length (c : HashContext) :
    (shaTail c).length = c.shabuflen.val + 1 + shaZeroBytes c.shabuflen.val + 8 := by
  have := c.shabuflen.isLt
  simp [shaTail, bytesOf, be64enc_length]
  omega

/-- An absorb keeps the tag and, once the buffer holds what the counter counts beyond whole blocks, it goes on to. -/
theorem shaAbsorbByte_counted {c : HashContext} (x : Byte) (h : c.shatotlen.toNat % 64 = c.shabuflen.val) :
    (shaAbsorbByte c x).shatotlen.toNat % 64 = (shaAbsorbByte c x).shabuflen.val := by
  unfold shaAbsorbByte
  split <;> simp [BitVec.toNat_add] <;> omega

theorem shaAbsorbByte_shatag (c : HashContext) (x : Byte) : (shaAbsorbByte c x).shatag = c.shatag := by
  unfold shaAbsorbByte
  split <;> rfl

@[simp] theorem shaAbsorbBytes_shatag (c : HashContext) (m : List Byte) : (shaAbsorbBytes c m).shatag = c.shatag := by
  induction m generalizing c with
  | nil => rfl
  | cons x m ih => exact (ih (shaAbsorbByte c x)).trans (shaAbsorbByte_shatag c x)

theorem shaAbsorbBytes_counted {c : HashContext} (m : List Byte) (h : c.shatotlen.toNat % 64 = c.shabuflen.val) :
    (shaAbsorbBytes c m).shatotlen.toNat % 64 = (shaAbsorbBytes c m).shabuflen.val := by
  induction m generalizing c with
  | nil => exact h
  | cons x m ih => exact ih (shaAbsorbByte_counted x h)

theorem shaAbsorbBytes_append (c : HashContext) (m n : List Byte) :
    shaAbsorbBytes c (m ++ n) = shaAbsorbBytes (shaAbsorbBytes c m) n := List.foldl_append

theorem blocks64_length (k : Nat) (s : List Byte) : (blocks64 k s).length = k := by
  induction k generalizing s with
  | zero => rfl
  | succ k ih => simp [blocks64, ih]

/-! ## The field GF(2^8) -/

theorem xtime_xor (a b : Byte) : xtime (a ^^^ b) = xtime a ^^^ xtime b := by
  have shift : (a ^^^ b) <<< 1 = (a <<< 1) ^^^ (b <<< 1) := BitVec.shiftLeft_xor_distrib a b 1
  have cancel : ∀ x y k : Byte, x ^^^ y = (x ^^^ k) ^^^ (y ^^^ k) := fun x y k => by
    have : x ^^^ k ^^^ (y ^^^ k) = x ^^^ y ^^^ (k ^^^ k) := by ac_rfl
    simp [this]
  unfold xtime
  rw [shift, BitVec.getLsbD_xor]
  cases a.getLsbD 7 <;> cases b.getLsbD 7
  · show _ ^^^ 0x00#8 = (_ ^^^ 0x00#8) ^^^ (_ ^^^ 0x00#8)
    simp only [BitVec.xor_zero]
  · show _ ^^^ 0x1b#8 = (_ ^^^ 0x00#8) ^^^ (_ ^^^ 0x1b#8)
    rw [BitVec.xor_zero]
    ac_rfl
  · show _ ^^^ 0x1b#8 = (_ ^^^ 0x1b#8) ^^^ (_ ^^^ 0x00#8)
    rw [BitVec.xor_zero]
    ac_rfl
  · show _ ^^^ 0x00#8 = _
    rw [BitVec.xor_zero]
    exact cancel _ _ _

theorem gfMul_xor_fold (c : Byte) (l : List Nat) (a b acc x y : Byte) (h : x ^^^ y = acc) :
    l.foldl (fun acc i => if (a ^^^ b).getLsbD i then acc ^^^ xtimes i c else acc) acc =
    l.foldl (fun acc i => if a.getLsbD i then acc ^^^ xtimes i c else acc) x ^^^
    l.foldl (fun acc i => if b.getLsbD i then acc ^^^ xtimes i c else acc) y := by
  induction l generalizing acc x y with
  | nil => simpa using h.symm
  | cons i l ih =>
    simp only [List.foldl_cons]
    apply ih
    subst h
    cases ha : a.getLsbD i <;> cases hb : b.getLsbD i <;> simp [ha, hb]
    · ac_rfl
    · ac_rfl
    · have : x ^^^ xtimes i c ^^^ (y ^^^ xtimes i c) = x ^^^ y ^^^ (xtimes i c ^^^ xtimes i c) := by ac_rfl
      simp [this]

/-- The field product is linear in its second factor. -/
theorem gfMul_xor (c a b : Byte) : gfMul c (a ^^^ b) = gfMul c a ^^^ gfMul c b :=
  gfMul_xor_fold c _ a b 0#8 0#8 0#8 rfl

/-! ## Blocks, chaining and padding -/

theorem blockOfState_length (s : AesState) : (blockOfState s).length = 16 := rfl

theorem aesCipher_length (w : List Word) (nr : Nat) (b : List Byte) : (aesCipher w nr b).length = 16 := rfl

theorem aesInvCipher_length (w : List Word) (nr : Nat) (b : List Byte) : (aesInvCipher w nr b).length = 16 := rfl

/-- A block's state, read back, is the block. -/
theorem blockOfState_stateOfBlock {b : List Byte} (h : b.length = 16) : blockOfState (stateOfBlock b) = b := by
  refine List.ext_getElem (by simp [blockOfState_length, h]) fun i h1 h2 => ?_
  have hi : i < 16 := h ▸ h2
  interval_cases i <;> simp [blockOfState, stateOfBlock, columnBytes, columnOfBlock, h]

theorem stateOfBlock_blockOfState (s : AesState) : stateOfBlock (blockOfState s) = s := rfl

theorem blocks16_length (k : Nat) (s : List Byte) : (blocks16 k s).length = k := by
  induction k generalizing s with
  | zero => rfl
  | succ k ih => simp [blocks16, ih]

theorem chainEncBlocks_length (w : List Word) (nr : Nat) (prev : List Byte) (ps : List (List Byte)) :
    (chainEncBlocks w nr prev ps).length = 16 * ps.length := by
  induction ps generalizing prev with
  | nil => rfl
  | cons p ps ih => simp [chainEncBlocks, ih, aesCipher_length]; omega

theorem chainDecBlocks_length_le (w : List Word) (nr : Nat) (prev : List Byte) (cs : List (List Byte)) :
    (chainDecBlocks w nr prev cs).length ≤ 16 * cs.length := by
  induction cs generalizing prev with
  | nil => simp [chainDecBlocks]
  | cons c cs ih =>
    have := ih c
    simp [chainDecBlocks, xorBytes, aesInvCipher_length]
    omega

theorem padLength_bounds (n : Nat) : 1 ≤ padLength n ∧ padLength n ≤ 16 := by
  unfold padLength
  omega

theorem pkcs7Pad_length (m : List Byte) : (pkcs7Pad m).length = paddedLength m.length := by
  simp [pkcs7Pad, bytesOf, paddedLength]

theorem paddedLength_mod (n : Nat) : paddedLength n % 16 = 0 := by
  unfold paddedLength padLength
  omega

/-- The ciphertext is as long as the padded plaintext. -/
theorem chainEnc_length (w : List Word) (nr : Nat) (iv m : List Byte) :
    (chainEnc w nr iv (pkcs7Pad m)).length = paddedLength m.length := by
  have := paddedLength_mod m.length
  rw [chainEnc, chainEncBlocks_length, blocks16_length, pkcs7Pad_length]
  omega

theorem chainDec_length_le (w : List Word) (nr : Nat) (iv c : List Byte) :
    (chainDec w nr iv c).length ≤ c.length := by
  have := chainDecBlocks_length_le w nr iv (blocks16 (c.length / 16) c)
  rw [blocks16_length] at this
  exact this.trans (by omega)

/-- `pkcs7Unpad` accepts exactly the well-padded byte strings, and answers what stands before the trailer. -/
theorem pkcs7Unpad_eq_some_iff (b r : List Byte) : pkcs7Unpad b = some r ↔ PaddedForm b r := by
  unfold pkcs7Unpad PaddedForm
  constructor
  · intro h
    simp only at h
    split at h
    · simp at h
    next h0 =>
    split at h
    · simp at h
    next h16 =>
    split at h
    · simp at h
    next hn =>
    generalize (b.getLastD 0#8).toNat = n at h hn
    split at h
    next hall =>
      obtain rfl := Option.some.inj h
      have hlen : 16 ≤ b.length := by omega
      refine ⟨by omega, n, by omega, by omega, ?_⟩
      have hdrop : b.drop (b.length - n) = List.replicate n (BitVec.ofNat 8 n) := by
        refine List.eq_replicate_iff.2 ⟨by simp; omega, fun x hx => ?_⟩
        exact by simpa using List.all_eq_true.1 hall x hx
      rw [← hdrop, List.take_append_drop]
    · simp at h
  · rintro ⟨h16, n, h1, h2, rfl⟩
    have hlast : (r ++ List.replicate n (BitVec.ofNat 8 n)).getLastD 0#8 = BitVec.ofNat 8 n := by
      obtain ⟨k, rfl⟩ : ∃ k, n = k + 1 := ⟨n - 1, by omega⟩
      rw [List.replicate_succ', ← List.append_assoc]
      simp
    have hn : (BitVec.ofNat 8 n).toNat = n := by simp; omega
    simp only [hlast, hn]
    rw [if_neg (by simp; omega), if_neg (by omega), if_neg (by omega)]
    simp

theorem pkcs7Unpad_length_le {b r : List Byte} (h : pkcs7Unpad b = some r) : r.length ≤ b.length := by
  obtain ⟨-, n, -, -, rfl⟩ := (pkcs7Unpad_eq_some_iff b r).1 h
  simp

end Sys2Proof.Machine
end

