-- ==== Sys2Proof/Laws/Memory.lean ====
section
/-! SUPPORT. The laws of DMEM: every operation keeps the canonical form; a read after a write; what `memRead` gives. -/

namespace Sys2Proof.Machine

theorem wf_nil : Memory.wf [] = true := rfl

theorem wf_iff (m : Memory) : Memory.wf m = true ↔ m.Pairwise fun x y => x.1 < y.1 := by
  simp [Memory.wf]

/-- The offsets a `memSet` lists are the new one and the old ones. -/
theorem mem_memSet {m : Memory} {a : Nat} {b : Byte} {c : Host.Cell} (h : c ∈ memSet m a b) :
    c = (a, b) ∨ c ∈ m := by
  induction m with
  | nil => simpa [memSet] using h
  | cons d m ih =>
    unfold memSet at h
    split at h
    · simpa using h
    · split at h
      · rcases List.mem_cons.1 h with h | h
        · exact .inl h
        · exact .inr (List.mem_cons_of_mem _ h)
      · rcases List.mem_cons.1 h with h | h
        · exact .inr (h ▸ List.mem_cons_self)
        · exact (ih h).imp id (List.mem_cons_of_mem _)

/-- A store keeps the canonical form. -/
theorem memSet_wf {m : Memory} (a : Nat) (b : Byte) (h : Memory.wf m = true) : Memory.wf (memSet m a b) = true := by
  rw [wf_iff] at h ⊢
  induction m with
  | nil => simp [memSet]
  | cons c m ih =>
    obtain ⟨hc, hm⟩ := List.pairwise_cons.1 h
    unfold memSet
    split
    next hlt =>
      refine List.pairwise_cons.2 ⟨fun x hx => ?_, h⟩
      rcases List.mem_cons.1 hx with rfl | hx
      · exact hlt
      · exact hlt.trans (hc x hx)
    next hge =>
      split
      next heq => exact List.pairwise_cons.2 ⟨fun x hx => heq ▸ hc x hx, hm⟩
      next hne =>
        refine List.pairwise_cons.2 ⟨fun x hx => ?_, ih hm⟩
        rcases mem_memSet hx with rfl | hx
        · show c.1 < a
          omega
        · exact hc x hx

/-- Writing a byte string keeps the canonical form. -/
theorem memWrite_wf {m : Memory} (a : Nat) (bs : List Byte) (h : Memory.wf m = true) :
    Memory.wf (memWrite m a bs) = true := by
  induction bs generalizing m a with
  | nil => exact h
  | cons b bs ih => exact ih (a + 1) (memSet_wf a b h)

/-- A byte read after a store. -/
theorem memByte_memSet (m : Memory) (a : Nat) (b : Byte) (x : Nat) :
    memByte (memSet m a b) x = if x = a then some b else memByte m x := by
  induction m with
  | nil => simp [memSet, memByte, eq_comm]
  | cons c m ih =>
    unfold memSet
    split
    next hlt => simp [memByte, eq_comm]
    next hge =>
      split
      next heq => subst heq; by_cases hx : x = c.1 <;> simp [memByte, hx, eq_comm]
      next hne =>
        by_cases hx : c.1 = x
        · have : x ≠ a := fun h => hne (h ▸ hx.symm)
          simp [memByte, hx, this]
        · simp [memByte, hx, ih]

/-- A byte read after a write of a byte string: byte `x - a` of the string inside its range, the old byte outside. -/
theorem memByte_memWrite (m : Memory) (a : Nat) (bs : List Byte) (x : Nat) :
    memByte (memWrite m a bs) x =
      if a ≤ x ∧ x < a + bs.length then bs[x - a]? else memByte m x := by
  induction bs generalizing m a with
  | nil =>
    have : ¬ (a ≤ x ∧ x < a) := by omega
    simp [memWrite, this]
  | cons b bs ih =>
    rw [memWrite, ih, memByte_memSet]
    by_cases hx : x = a
    · have h1 : ¬ (a + 1 ≤ x ∧ x < a + 1 + bs.length) := by omega
      have h2 : a ≤ x ∧ x < a + (b :: bs).length := by simp; omega
      rw [if_neg h1, if_pos hx, if_pos h2]
      simp [hx]
    · by_cases hin : a + 1 ≤ x ∧ x < a + 1 + bs.length
      · have h2 : a ≤ x ∧ x < a + (b :: bs).length := by simp; omega
        have h3 : x - a = (x - (a + 1)) + 1 := by omega
        rw [if_pos hin, if_pos h2, h3]
        simp
      · have h2 : ¬ (a ≤ x ∧ x < a + (b :: bs).length) := by simp; omega
        rw [if_neg hin, if_neg hx, if_neg h2]

/-- Outside the written range nothing changes. -/
theorem memByte_memWrite_outside {m : Memory} {a x : Nat} {bs : List Byte} (h : x < a ∨ a + bs.length ≤ x) :
    memByte (memWrite m a bs) x = memByte m x := by
  rw [memByte_memWrite, if_neg (by omega)]

/-- Inside the written range the new byte stands. -/
theorem memByte_memWrite_inside {m : Memory} {a i : Nat} {bs : List Byte} (h : i < bs.length) :
    memByte (memWrite m a bs) (a + i) = some bs[i] := by
  rw [memByte_memWrite, if_pos (by omega)]
  simp [h]

/-- The listed offsets after a write are old ones or lie in the written range. -/
theorem mem_memWrite {m : Memory} {a : Nat} {bs : List Byte} {c : Host.Cell} (h : c ∈ memWrite m a bs) :
    c ∈ m ∨ (a ≤ c.1 ∧ c.1 < a + bs.length) := by
  induction bs generalizing m a with
  | nil => exact .inl h
  | cons b bs ih =>
    rcases ih h with h | h
    · rcases mem_memSet h with rfl | h
      · right; simp
      · exact .inl h
    · right; simp; omega

/-- `MemRead` gives the bytes exactly when every byte of the range is written. -/
theorem memRead_bytes_iff (m : Memory) (a n : Nat) (bs : List Byte) :
    memRead m a n = .bytes bs ↔ bs.length = n ∧ ∀ i (h : i < bs.length), memByte m (a + i) = some bs[i] := by
  induction n generalizing a bs with
  | zero =>
    constructor
    · intro h
      obtain rfl : [] = bs := by simpa [memRead] using h
      simp
    · rintro ⟨h, -⟩
      simp [memRead, List.length_eq_zero_iff.1 h]
  | succ n ih =>
    unfold memRead
    constructor
    · intro h
      split at h
      · simp at h
      next b hb =>
        split at h
        next bs' hbs =>
          obtain rfl : b :: bs' = bs := by simpa using h
          obtain ⟨hl, hi⟩ := (ih (a + 1) bs').1 hbs
          refine ⟨by simp [hl], fun i h => ?_⟩
          cases i with
          | zero => simpa using hb
          | succ i =>
            have := hi i (by simpa using h)
            simpa [Nat.add_assoc, Nat.add_comm 1] using this
        · simp at h
    · rintro ⟨hl, hi⟩
      obtain ⟨b, bs, rfl⟩ : ∃ b bs', bs = b :: bs' := by
        cases bs with
        | nil => simp at hl
        | cons b bs' => exact ⟨b, bs', rfl⟩
      have hb : memByte m a = some b := hi 0 (Nat.succ_pos _)
      have hbs : memRead m (a + 1) n = .bytes bs := by
        refine (ih (a + 1) bs).2 ⟨by simpa using hl, fun i h => ?_⟩
        have := hi (i + 1) (by simpa using h)
        simpa [Nat.add_assoc, Nat.add_comm 1] using this
      simp [hb, hbs]

/-- When `MemRead` finds an unwritten byte, it is the lowest of the range. -/
theorem memRead_unwritten {m : Memory} {a n u : Nat} (h : memRead m a n = .unwritten u) :
    a ≤ u ∧ u < a + n ∧ memByte m u = none ∧ ∀ x, a ≤ x → x < u → memByte m x ≠ none := by
  induction n generalizing a with
  | zero => simp [memRead] at h
  | succ n ih =>
    unfold memRead at h
    split at h
    next hn =>
      obtain rfl : a = u := by simpa using h
      exact ⟨le_rfl, by omega, hn, fun x h1 h2 => by omega⟩
    next b hb =>
      split at h
      · simp at h
      next v hv =>
        obtain rfl : v = u := by simpa using h
        obtain ⟨h1, h2, h3, h4⟩ := ih hv
        refine ⟨by omega, by omega, h3, fun x hx1 hx2 => ?_⟩
        by_cases hxa : x = a
        · simp [hxa, hb]
        · exact h4 x (by omega) hx2

/-- `MemRead` of a range that is wholly written answers its bytes. -/
theorem memRead_of_written {m : Memory} {a n : Nat} (h : ∀ x, a ≤ x → x < a + n → memByte m x ≠ none) :
    ∃ bs, memRead m a n = .bytes bs := by
  cases hr : memRead m a n with
  | bytes bs => exact ⟨bs, rfl⟩
  | unwritten u =>
    obtain ⟨h1, h2, h3, -⟩ := memRead_unwritten hr
    exact absurd h3 (h u h1 h2)

/-- `MemRead` answers an offset exactly when it is the lowest unwritten one of the range. -/
theorem memRead_unwritten_iff (m : Memory) (a n u : Nat) :
    memRead m a n = .unwritten u ↔
      a ≤ u ∧ u < a + n ∧ memByte m u = none ∧ ∀ x, a ≤ x → x < u → memByte m x ≠ none := by
  refine ⟨memRead_unwritten, fun ⟨h1, h2, h3, h4⟩ => ?_⟩
  cases hr : memRead m a n with
  | bytes bs =>
    obtain ⟨hl, hb⟩ := (memRead_bytes_iff m a n bs).1 hr
    have := hb (u - a) (by omega)
    rw [Nat.add_sub_cancel' h1, h3] at this
    simp at this
  | unwritten v =>
    obtain ⟨k1, -, k3, k4⟩ := memRead_unwritten hr
    obtain h | rfl | h := Nat.lt_trichotomy u v
    · exact absurd h3 (k4 u h1 h)
    · rfl
    · exact absurd k3 (h4 v k1 h)

theorem memRead_length {m : Memory} {a n : Nat} {bs : List Byte} (h : memRead m a n = .bytes bs) : bs.length = n :=
  ((memRead_bytes_iff m a n bs).1 h).1

/-- Reading back a written byte string. -/
theorem memRead_memWrite_same (m : Memory) (a : Nat) (bs : List Byte) :
    memRead (memWrite m a bs) a bs.length = .bytes bs :=
  (memRead_bytes_iff _ _ _ _).2 ⟨rfl, fun _ h => memByte_memWrite_inside h⟩

/-- Reading a range that a write does not touch. -/
theorem memRead_memWrite_disjoint {m : Memory} {a n x : Nat} {bs : List Byte} (h : x + n ≤ a ∨ a + bs.length ≤ x) :
    memRead (memWrite m a bs) x n = memRead m x n := by
  induction n generalizing x with
  | zero => rfl
  | succ n ih =>
    unfold memRead
    rw [memByte_memWrite_outside (by omega), ih (by omega)]

end Sys2Proof.Machine
end

