-- ==== Sys2Proof/Laws/State.lean ====
section
/-! SUPPORT. What each named update of the state does to each field, true by computation: no later proof unfolds a
record update. -/

namespace Sys2Proof.Machine

/-! ### `complete` -/

@[simp] theorem complete_cfg (s : State) : (complete s).cfg = s.cfg := rfl
@[simp] theorem complete_cmd (s : State) : (complete s).cmd = s.cmd := rfl
@[simp] theorem complete_src (s : State) : (complete s).src = s.src := rfl
@[simp] theorem complete_len (s : State) : (complete s).len = s.len := rfl
@[simp] theorem complete_dst (s : State) : (complete s).dst = s.dst := rfl
@[simp] theorem complete_outlen (s : State) : (complete s).outlen = s.outlen := rfl
@[simp] theorem complete_rngout (s : State) : (complete s).rngout = s.rngout := rfl
@[simp] theorem complete_iv (s : State) : (complete s).iv = s.iv := rfl
@[simp] theorem complete_err (s : State) : (complete s).err = s.err := rfl
@[simp] theorem complete_fatal (s : State) : (complete s).fatal = s.fatal := rfl
@[simp] theorem complete_busy (s : State) : (complete s).busy = false := rfl
@[simp] theorem complete_pending (s : State) : (complete s).pending = Config.freePending s.freeCount := rfl
@[simp] theorem complete_sha (s : State) : (complete s).sha = s.sha := rfl
@[simp] theorem complete_aes (s : State) : (complete s).aes = s.aes := rfl
@[simp] theorem complete_dmem (s : State) : (complete s).dmem = s.dmem := rfl
@[simp] theorem complete_rngHistory (s : State) : (complete s).rngHistory = s.rngHistory := rfl
@[simp] theorem complete_rngAnswers (s : State) : (complete s).rngAnswers = s.rngAnswers := rfl
@[simp] theorem complete_resets (s : State) : (complete s).resets = s.resets := rfl
@[simp] theorem complete_freeCount (s : State) : (complete s).freeCount = s.freeCount + 1 := rfl
@[simp] theorem complete_busyWindow (s : State) : (complete s).busyWindow = s.busyWindow := rfl
@[simp] theorem complete_rdata (s : State) : (complete s).rdata = s.rdata := rfl
@[simp] theorem complete_turns (s : State) : (complete s).turns = s.turns := rfl

/-! ### `commit` -/

@[simp] theorem commit_cfg (n : Nat) (s : State) : (commit n s).cfg = s.cfg := rfl
@[simp] theorem commit_cmd (n : Nat) (s : State) : (commit n s).cmd = s.cmd := rfl
@[simp] theorem commit_src (n : Nat) (s : State) : (commit n s).src = s.src := rfl
@[simp] theorem commit_len (n : Nat) (s : State) : (commit n s).len = s.len := rfl
@[simp] theorem commit_dst (n : Nat) (s : State) : (commit n s).dst = s.dst := rfl
@[simp] theorem commit_outlen (n : Nat) (s : State) : (commit n s).outlen = BitVec.ofNat 32 n := rfl
@[simp] theorem commit_rngout (n : Nat) (s : State) : (commit n s).rngout = s.rngout := rfl
@[simp] theorem commit_iv (n : Nat) (s : State) : (commit n s).iv = s.iv := rfl
@[simp] theorem commit_err (n : Nat) (s : State) : (commit n s).err = .ok := rfl
@[simp] theorem commit_fatal (n : Nat) (s : State) : (commit n s).fatal = s.fatal := rfl
@[simp] theorem commit_busy (n : Nat) (s : State) : (commit n s).busy = false := rfl
@[simp] theorem commit_pending (n : Nat) (s : State) : (commit n s).pending = Config.freePending s.freeCount := rfl
@[simp] theorem commit_sha (n : Nat) (s : State) : (commit n s).sha = s.sha := rfl
@[simp] theorem commit_aes (n : Nat) (s : State) : (commit n s).aes = s.aes := rfl
@[simp] theorem commit_dmem (n : Nat) (s : State) : (commit n s).dmem = s.dmem := rfl
@[simp] theorem commit_rngHistory (n : Nat) (s : State) : (commit n s).rngHistory = s.rngHistory := rfl
@[simp] theorem commit_rngAnswers (n : Nat) (s : State) : (commit n s).rngAnswers = s.rngAnswers := rfl
@[simp] theorem commit_resets (n : Nat) (s : State) : (commit n s).resets = s.resets := rfl
@[simp] theorem commit_freeCount (n : Nat) (s : State) : (commit n s).freeCount = s.freeCount + 1 := rfl
@[simp] theorem commit_busyWindow (n : Nat) (s : State) : (commit n s).busyWindow = s.busyWindow := rfl
@[simp] theorem commit_rdata (n : Nat) (s : State) : (commit n s).rdata = s.rdata := rfl
@[simp] theorem commit_turns (n : Nat) (s : State) : (commit n s).turns = s.turns := rfl

/-! ### `reject` -/

@[simp] theorem reject_cfg (e : ErrCode) (s : State) : (reject e s).cfg = s.cfg := rfl
@[simp] theorem reject_cmd (e : ErrCode) (s : State) : (reject e s).cmd = s.cmd := rfl
@[simp] theorem reject_src (e : ErrCode) (s : State) : (reject e s).src = s.src := rfl
@[simp] theorem reject_len (e : ErrCode) (s : State) : (reject e s).len = s.len := rfl
@[simp] theorem reject_dst (e : ErrCode) (s : State) : (reject e s).dst = s.dst := rfl
@[simp] theorem reject_outlen (e : ErrCode) (s : State) : (reject e s).outlen = 0#32 := rfl
@[simp] theorem reject_rngout (e : ErrCode) (s : State) : (reject e s).rngout = s.rngout := rfl
@[simp] theorem reject_iv (e : ErrCode) (s : State) : (reject e s).iv = s.iv := rfl
@[simp] theorem reject_err (e : ErrCode) (s : State) : (reject e s).err = e := rfl
@[simp] theorem reject_fatal (e : ErrCode) (s : State) : (reject e s).fatal = s.fatal := rfl
@[simp] theorem reject_busy (e : ErrCode) (s : State) : (reject e s).busy = false := rfl
@[simp] theorem reject_pending (e : ErrCode) (s : State) : (reject e s).pending = Config.freePending s.freeCount := rfl
@[simp] theorem reject_sha (e : ErrCode) (s : State) : (reject e s).sha = s.sha := rfl
@[simp] theorem reject_aes (e : ErrCode) (s : State) : (reject e s).aes = s.aes := rfl
@[simp] theorem reject_dmem (e : ErrCode) (s : State) : (reject e s).dmem = s.dmem := rfl
@[simp] theorem reject_rngHistory (e : ErrCode) (s : State) : (reject e s).rngHistory = s.rngHistory := rfl
@[simp] theorem reject_rngAnswers (e : ErrCode) (s : State) : (reject e s).rngAnswers = s.rngAnswers := rfl
@[simp] theorem reject_resets (e : ErrCode) (s : State) : (reject e s).resets = s.resets := rfl
@[simp] theorem reject_freeCount (e : ErrCode) (s : State) : (reject e s).freeCount = s.freeCount + 1 := rfl
@[simp] theorem reject_busyWindow (e : ErrCode) (s : State) : (reject e s).busyWindow = s.busyWindow := rfl
@[simp] theorem reject_rdata (e : ErrCode) (s : State) : (reject e s).rdata = s.rdata := rfl
@[simp] theorem reject_turns (e : ErrCode) (s : State) : (reject e s).turns = s.turns := rfl

/-! ### `commitAtDst` -/

@[simp] theorem commitAtDst_cfg (bs : List Byte) (s : State) : (commitAtDst bs s).cfg = s.cfg := rfl
@[simp] theorem commitAtDst_cmd (bs : List Byte) (s : State) : (commitAtDst bs s).cmd = s.cmd := rfl
@[simp] theorem commitAtDst_src (bs : List Byte) (s : State) : (commitAtDst bs s).src = s.src := rfl
@[simp] theorem commitAtDst_len (bs : List Byte) (s : State) : (commitAtDst bs s).len = s.len := rfl
@[simp] theorem commitAtDst_dst (bs : List Byte) (s : State) : (commitAtDst bs s).dst = s.dst := rfl
@[simp] theorem commitAtDst_outlen (bs : List Byte) (s : State) : (commitAtDst bs s).outlen = BitVec.ofNat 32 bs.length := rfl
@[simp] theorem commitAtDst_rngout (bs : List Byte) (s : State) : (commitAtDst bs s).rngout = s.rngout := rfl
@[simp] theorem commitAtDst_iv (bs : List Byte) (s : State) : (commitAtDst bs s).iv = s.iv := rfl
@[simp] theorem commitAtDst_err (bs : List Byte) (s : State) : (commitAtDst bs s).err = .ok := rfl
@[simp] theorem commitAtDst_fatal (bs : List Byte) (s : State) : (commitAtDst bs s).fatal = s.fatal := rfl
@[simp] theorem commitAtDst_busy (bs : List Byte) (s : State) : (commitAtDst bs s).busy = false := rfl
@[simp] theorem commitAtDst_pending (bs : List Byte) (s : State) : (commitAtDst bs s).pending = Config.freePending s.freeCount := rfl
@[simp] theorem commitAtDst_sha (bs : List Byte) (s : State) : (commitAtDst bs s).sha = s.sha := rfl
@[simp] theorem commitAtDst_aes (bs : List Byte) (s : State) : (commitAtDst bs s).aes = s.aes := rfl
@[simp] theorem commitAtDst_dmem (bs : List Byte) (s : State) : (commitAtDst bs s).dmem = memWrite s.dmem s.dst.toNat bs := rfl
@[simp] theorem commitAtDst_rngHistory (bs : List Byte) (s : State) : (commitAtDst bs s).rngHistory = s.rngHistory := rfl
@[simp] theorem commitAtDst_rngAnswers (bs : List Byte) (s : State) : (commitAtDst bs s).rngAnswers = s.rngAnswers := rfl
@[simp] theorem commitAtDst_resets (bs : List Byte) (s : State) : (commitAtDst bs s).resets = s.resets := rfl
@[simp] theorem commitAtDst_freeCount (bs : List Byte) (s : State) : (commitAtDst bs s).freeCount = s.freeCount + 1 := rfl
@[simp] theorem commitAtDst_busyWindow (bs : List Byte) (s : State) : (commitAtDst bs s).busyWindow = s.busyWindow := rfl
@[simp] theorem commitAtDst_rdata (bs : List Byte) (s : State) : (commitAtDst bs s).rdata = s.rdata := rfl
@[simp] theorem commitAtDst_turns (bs : List Byte) (s : State) : (commitAtDst bs s).turns = s.turns := rfl

/-! ### `issue` -/

@[simp] theorem issue_cfg (v : Word) (s : State) : (issue v s).cfg = s.cfg := rfl
@[simp] theorem issue_cmd (v : Word) (s : State) : (issue v s).cmd = v := rfl
@[simp] theorem issue_src (v : Word) (s : State) : (issue v s).src = s.src := rfl
@[simp] theorem issue_len (v : Word) (s : State) : (issue v s).len = s.len := rfl
@[simp] theorem issue_dst (v : Word) (s : State) : (issue v s).dst = s.dst := rfl
@[simp] theorem issue_outlen (v : Word) (s : State) : (issue v s).outlen = s.outlen := rfl
@[simp] theorem issue_rngout (v : Word) (s : State) : (issue v s).rngout = s.rngout := rfl
@[simp] theorem issue_iv (v : Word) (s : State) : (issue v s).iv = s.iv := rfl
@[simp] theorem issue_err (v : Word) (s : State) : (issue v s).err = s.err := rfl
@[simp] theorem issue_fatal (v : Word) (s : State) : (issue v s).fatal = s.fatal := rfl
@[simp] theorem issue_busy (v : Word) (s : State) : (issue v s).busy = true := rfl
@[simp] theorem issue_pending (v : Word) (s : State) : (issue v s).pending = v := rfl
@[simp] theorem issue_sha (v : Word) (s : State) : (issue v s).sha = s.sha := rfl
@[simp] theorem issue_aes (v : Word) (s : State) : (issue v s).aes = s.aes := rfl
@[simp] theorem issue_dmem (v : Word) (s : State) : (issue v s).dmem = s.dmem := rfl
@[simp] theorem issue_rngHistory (v : Word) (s : State) : (issue v s).rngHistory = s.rngHistory := rfl
@[simp] theorem issue_rngAnswers (v : Word) (s : State) : (issue v s).rngAnswers = s.rngAnswers := rfl
@[simp] theorem issue_resets (v : Word) (s : State) : (issue v s).resets = s.resets := rfl
@[simp] theorem issue_freeCount (v : Word) (s : State) : (issue v s).freeCount = s.freeCount := rfl
@[simp] theorem issue_busyWindow (v : Word) (s : State) : (issue v s).busyWindow = true := rfl
@[simp] theorem issue_rdata (v : Word) (s : State) : (issue v s).rdata = s.rdata := rfl
@[simp] theorem issue_turns (v : Word) (s : State) : (issue v s).turns = s.turns := rfl

/-! ### `rngAdvance` -/

@[simp] theorem rngAdvance_cfg (s : State) : (rngAdvance s).cfg = s.cfg := rfl
@[simp] theorem rngAdvance_cmd (s : State) : (rngAdvance s).cmd = s.cmd := rfl
@[simp] theorem rngAdvance_src (s : State) : (rngAdvance s).src = s.src := rfl
@[simp] theorem rngAdvance_len (s : State) : (rngAdvance s).len = s.len := rfl
@[simp] theorem rngAdvance_dst (s : State) : (rngAdvance s).dst = s.dst := rfl
@[simp] theorem rngAdvance_outlen (s : State) : (rngAdvance s).outlen = s.outlen := rfl
@[simp] theorem rngAdvance_rngout (s : State) : (rngAdvance s).rngout = s.rngout := rfl
@[simp] theorem rngAdvance_iv (s : State) : (rngAdvance s).iv = s.iv := rfl
@[simp] theorem rngAdvance_err (s : State) : (rngAdvance s).err = s.err := rfl
@[simp] theorem rngAdvance_fatal (s : State) : (rngAdvance s).fatal = s.fatal := rfl
@[simp] theorem rngAdvance_busy (s : State) : (rngAdvance s).busy = s.busy := rfl
@[simp] theorem rngAdvance_pending (s : State) : (rngAdvance s).pending = s.pending := rfl
@[simp] theorem rngAdvance_sha (s : State) : (rngAdvance s).sha = s.sha := rfl
@[simp] theorem rngAdvance_aes (s : State) : (rngAdvance s).aes = s.aes := rfl
@[simp] theorem rngAdvance_dmem (s : State) : (rngAdvance s).dmem = s.dmem := rfl
@[simp] theorem rngAdvance_rngHistory (s : State) : (rngAdvance s).rngHistory = s.rngHistory ++ [rngNext s] := rfl
@[simp] theorem rngAdvance_rngAnswers (s : State) : (rngAdvance s).rngAnswers = s.rngAnswers.tail := rfl
@[simp] theorem rngAdvance_resets (s : State) : (rngAdvance s).resets = s.resets := rfl
@[simp] theorem rngAdvance_freeCount (s : State) : (rngAdvance s).freeCount = s.freeCount := rfl
@[simp] theorem rngAdvance_busyWindow (s : State) : (rngAdvance s).busyWindow = s.busyWindow := rfl
@[simp] theorem rngAdvance_rdata (s : State) : (rngAdvance s).rdata = s.rdata := rfl
@[simp] theorem rngAdvance_turns (s : State) : (rngAdvance s).turns = s.turns := rfl

/-! ### `platformReset` -/

@[simp] theorem platformReset_cfg (p : Bool) (s : State) : (platformReset p s).cfg = s.cfg := rfl
@[simp] theorem platformReset_cmd (p : Bool) (s : State) : (platformReset p s).cmd = 0#32 := rfl
@[simp] theorem platformReset_src (p : Bool) (s : State) : (platformReset p s).src = 0#32 := rfl
@[simp] theorem platformReset_len (p : Bool) (s : State) : (platformReset p s).len = 0#32 := rfl
@[simp] theorem platformReset_dst (p : Bool) (s : State) : (platformReset p s).dst = 0#32 := rfl
@[simp] theorem platformReset_outlen (p : Bool) (s : State) : (platformReset p s).outlen = 0#32 := rfl
@[simp] theorem platformReset_rngout (p : Bool) (s : State) : (platformReset p s).rngout = 0#32 := rfl
@[simp] theorem platformReset_iv (p : Bool) (s : State) : (platformReset p s).iv = Vector.replicate 16 0#8 := rfl
@[simp] theorem platformReset_err (p : Bool) (s : State) : (platformReset p s).err = if p then .ok else .entropySourceUnavailable := rfl
@[simp] theorem platformReset_fatal (p : Bool) (s : State) : (platformReset p s).fatal = !p := rfl
@[simp] theorem platformReset_busy (p : Bool) (s : State) : (platformReset p s).busy = false := rfl
@[simp] theorem platformReset_pending (p : Bool) (s : State) : (platformReset p s).pending = 0#32 := rfl
@[simp] theorem platformReset_sha (p : Bool) (s : State) : (platformReset p s).sha = (State.afterReset s.cfg p).sha := rfl
@[simp] theorem platformReset_aes (p : Bool) (s : State) : (platformReset p s).aes = (State.afterReset s.cfg p).aes := rfl
@[simp] theorem platformReset_dmem (p : Bool) (s : State) : (platformReset p s).dmem = [] := rfl
@[simp] theorem platformReset_rngHistory (p : Bool) (s : State) : (platformReset p s).rngHistory = [] := rfl
@[simp] theorem platformReset_rngAnswers (p : Bool) (s : State) : (platformReset p s).rngAnswers = s.rngAnswers := rfl
@[simp] theorem platformReset_resets (p : Bool) (s : State) : (platformReset p s).resets = s.resets + 1 := rfl
@[simp] theorem platformReset_freeCount (p : Bool) (s : State) : (platformReset p s).freeCount = s.freeCount := rfl
@[simp] theorem platformReset_busyWindow (p : Bool) (s : State) : (platformReset p s).busyWindow = false := rfl
@[simp] theorem platformReset_rdata (p : Bool) (s : State) : (platformReset p s).rdata = s.rdata := rfl
@[simp] theorem platformReset_turns (p : Bool) (s : State) : (platformReset p s).turns = s.turns := rfl

/-! ### `rngAfter`: the draws touch the unit's history and answers alone -/

@[simp] theorem rngAfter_cfg (n : Nat) (s : State) : (rngAfter n s).cfg = s.cfg := by
  induction n generalizing s with
  | zero => rfl
  | succ n ih => simp [rngAfter, ih]

@[simp] theorem rngAfter_cmd (n : Nat) (s : State) : (rngAfter n s).cmd = s.cmd := by
  induction n generalizing s with
  | zero => rfl
  | succ n ih => simp [rngAfter, ih]

@[simp] theorem rngAfter_src (n : Nat) (s : State) : (rngAfter n s).src = s.src := by
  induction n generalizing s with
  | zero => rfl
  | succ n ih => simp [rngAfter, ih]

@[simp] theorem rngAfter_len (n : Nat) (s : State) : (rngAfter n s).len = s.len := by
  induction n generalizing s with
  | zero => rfl
  | succ n ih => simp [rngAfter, ih]

@[simp] theorem rngAfter_dst (n : Nat) (s : State) : (rngAfter n s).dst = s.dst := by
  induction n generalizing s with
  | zero => rfl
  | succ n ih => simp [rngAfter, ih]

@[simp] theorem rngAfter_outlen (n : Nat) (s : State) : (rngAfter n s).outlen = s.outlen := by
  induction n generalizing s with
  | zero => rfl
  | succ n ih => simp [rngAfter, ih]

@[simp] theorem rngAfter_rngout (n : Nat) (s : State) : (rngAfter n s).rngout = s.rngout := by
  induction n generalizing s with
  | zero => rfl
  | succ n ih => simp [rngAfter, ih]

@[simp] theorem rngAfter_iv (n : Nat) (s : State) : (rngAfter n s).iv = s.iv := by
  induction n generalizing s with
  | zero => rfl
  | succ n ih => simp [rngAfter, ih]

@[simp] theorem rngAfter_err (n : Nat) (s : State) : (rngAfter n s).err = s.err := by
  induction n generalizing s with
  | zero => rfl
  | succ n ih => simp [rngAfter, ih]

@[simp] theorem rngAfter_fatal (n : Nat) (s : State) : (rngAfter n s).fatal = s.fatal := by
  induction n generalizing s with
  | zero => rfl
  | succ n ih => simp [rngAfter, ih]

@[simp] theorem rngAfter_busy (n : Nat) (s : State) : (rngAfter n s).busy = s.busy := by
  induction n generalizing s with
  | zero => rfl
  | succ n ih => simp [rngAfter, ih]

@[simp] theorem rngAfter_pending (n : Nat) (s : State) : (rngAfter n s).pending = s.pending := by
  induction n generalizing s with
  | zero => rfl
  | succ n ih => simp [rngAfter, ih]

@[simp] theorem rngAfter_sha (n : Nat) (s : State) : (rngAfter n s).sha = s.sha := by
  induction n generalizing s with
  | zero => rfl
  | succ n ih => simp [rngAfter, ih]

@[simp] theorem rngAfter_aes (n : Nat) (s : State) : (rngAfter n s).aes = s.aes := by
  induction n generalizing s with
  | zero => rfl
  | succ n ih => simp [rngAfter, ih]

@[simp] theorem rngAfter_dmem (n : Nat) (s : State) : (rngAfter n s).dmem = s.dmem := by
  induction n generalizing s with
  | zero => rfl
  | succ n ih => simp [rngAfter, ih]

@[simp] theorem rngAfter_resets (n : Nat) (s : State) : (rngAfter n s).resets = s.resets := by
  induction n generalizing s with
  | zero => rfl
  | succ n ih => simp [rngAfter, ih]

@[simp] theorem rngAfter_freeCount (n : Nat) (s : State) : (rngAfter n s).freeCount = s.freeCount := by
  induction n generalizing s with
  | zero => rfl
  | succ n ih => simp [rngAfter, ih]

@[simp] theorem rngAfter_busyWindow (n : Nat) (s : State) : (rngAfter n s).busyWindow = s.busyWindow := by
  induction n generalizing s with
  | zero => rfl
  | succ n ih => simp [rngAfter, ih]

@[simp] theorem rngAfter_rdata (n : Nat) (s : State) : (rngAfter n s).rdata = s.rdata := by
  induction n generalizing s with
  | zero => rfl
  | succ n ih => simp [rngAfter, ih]

@[simp] theorem rngAfter_turns (n : Nat) (s : State) : (rngAfter n s).turns = s.turns := by
  induction n generalizing s with
  | zero => rfl
  | succ n ih => simp [rngAfter, ih]

@[simp] theorem rngAfter_rngAnswers (n : Nat) (s : State) : (rngAfter n s).rngAnswers = s.rngAnswers.drop n := by
  induction n generalizing s with
  | zero => rfl
  | succ n ih => rw [rngAfter, ih, rngAdvance_rngAnswers]; simp

@[simp] theorem rngAfter_rngHistory (n : Nat) (s : State) :
    (rngAfter n s).rngHistory = s.rngHistory ++ rngDraws n s := by
  induction n generalizing s with
  | zero => simp [rngAfter, rngDraws]
  | succ n ih => simp [rngAfter, rngDraws, ih]

@[simp] theorem rngDraws_length (n : Nat) (s : State) : (rngDraws n s).length = n := by
  induction n generalizing s with
  | zero => rfl
  | succ n ih => simp [rngDraws, ih]

/-! ### `commitEncrypted` and `commitUnpadded` -/

@[simp] theorem commitEncrypted_cfg (iv m : List Byte) (s : State) : (commitEncrypted iv m s).cfg = s.cfg := rfl
@[simp] theorem commitEncrypted_cmd (iv m : List Byte) (s : State) : (commitEncrypted iv m s).cmd = s.cmd := rfl
@[simp] theorem commitEncrypted_src (iv m : List Byte) (s : State) : (commitEncrypted iv m s).src = s.src := rfl
@[simp] theorem commitEncrypted_len (iv m : List Byte) (s : State) : (commitEncrypted iv m s).len = s.len := rfl
@[simp] theorem commitEncrypted_dst (iv m : List Byte) (s : State) : (commitEncrypted iv m s).dst = s.dst := rfl
@[simp] theorem commitEncrypted_outlen (iv m : List Byte) (s : State) : (commitEncrypted iv m s).outlen = BitVec.ofNat 32 (chainEnc (keyWords s) s.aes.nr iv (pkcs7Pad m)).length := rfl
@[simp] theorem commitEncrypted_rngout (iv m : List Byte) (s : State) : (commitEncrypted iv m s).rngout = s.rngout := rfl
@[simp] theorem commitEncrypted_iv (iv m : List Byte) (s : State) : (commitEncrypted iv m s).iv = ivOfBytes iv := rfl
@[simp] theorem commitEncrypted_err (iv m : List Byte) (s : State) : (commitEncrypted iv m s).err = .ok := rfl
@[simp] theorem commitEncrypted_fatal (iv m : List Byte) (s : State) : (commitEncrypted iv m s).fatal = s.fatal := rfl
@[simp] theorem commitEncrypted_busy (iv m : List Byte) (s : State) : (commitEncrypted iv m s).busy = false := rfl
@[simp] theorem commitEncrypted_pending (iv m : List Byte) (s : State) : (commitEncrypted iv m s).pending = Config.freePending s.freeCount := rfl
@[simp] theorem commitEncrypted_sha (iv m : List Byte) (s : State) : (commitEncrypted iv m s).sha = s.sha := rfl
@[simp] theorem commitEncrypted_aes (iv m : List Byte) (s : State) : (commitEncrypted iv m s).aes = s.aes := rfl
@[simp] theorem commitEncrypted_dmem (iv m : List Byte) (s : State) : (commitEncrypted iv m s).dmem = memWrite s.dmem s.dst.toNat (chainEnc (keyWords s) s.aes.nr iv (pkcs7Pad m)) := rfl
@[simp] theorem commitEncrypted_rngHistory (iv m : List Byte) (s : State) : (commitEncrypted iv m s).rngHistory = s.rngHistory := rfl
@[simp] theorem commitEncrypted_rngAnswers (iv m : List Byte) (s : State) : (commitEncrypted iv m s).rngAnswers = s.rngAnswers := rfl
@[simp] theorem commitEncrypted_resets (iv m : List Byte) (s : State) : (commitEncrypted iv m s).resets = s.resets := rfl
@[simp] theorem commitEncrypted_freeCount (iv m : List Byte) (s : State) : (commitEncrypted iv m s).freeCount = s.freeCount + 1 := rfl
@[simp] theorem commitEncrypted_busyWindow (iv m : List Byte) (s : State) : (commitEncrypted iv m s).busyWindow = s.busyWindow := rfl
@[simp] theorem commitEncrypted_rdata (iv m : List Byte) (s : State) : (commitEncrypted iv m s).rdata = s.rdata := rfl
@[simp] theorem commitEncrypted_turns (iv m : List Byte) (s : State) : (commitEncrypted iv m s).turns = s.turns := rfl
@[simp] theorem commitUnpadded_cfg (b : List Byte) (s : State) : (commitUnpadded b s).cfg = s.cfg := by
  unfold commitUnpadded; split <;> rfl
@[simp] theorem commitUnpadded_cmd (b : List Byte) (s : State) : (commitUnpadded b s).cmd = s.cmd := by
  unfold commitUnpadded; split <;> rfl
@[simp] theorem commitUnpadded_src (b : List Byte) (s : State) : (commitUnpadded b s).src = s.src := by
  unfold commitUnpadded; split <;> rfl
@[simp] theorem commitUnpadded_len (b : List Byte) (s : State) : (commitUnpadded b s).len = s.len := by
  unfold commitUnpadded; split <;> rfl
@[simp] theorem commitUnpadded_dst (b : List Byte) (s : State) : (commitUnpadded b s).dst = s.dst := by
  unfold commitUnpadded; split <;> rfl
@[simp] theorem commitUnpadded_rngout (b : List Byte) (s : State) : (commitUnpadded b s).rngout = s.rngout := by
  unfold commitUnpadded; split <;> rfl
@[simp] theorem commitUnpadded_iv (b : List Byte) (s : State) : (commitUnpadded b s).iv = s.iv := by
  unfold commitUnpadded; split <;> rfl
@[simp] theorem commitUnpadded_fatal (b : List Byte) (s : State) : (commitUnpadded b s).fatal = s.fatal := by
  unfold commitUnpadded; split <;> rfl
@[simp] theorem commitUnpadded_sha (b : List Byte) (s : State) : (commitUnpadded b s).sha = s.sha := by
  unfold commitUnpadded; split <;> rfl
@[simp] theorem commitUnpadded_aes (b : List Byte) (s : State) : (commitUnpadded b s).aes = s.aes := by
  unfold commitUnpadded; split <;> rfl
@[simp] theorem commitUnpadded_rngHistory (b : List Byte) (s : State) : (commitUnpadded b s).rngHistory = s.rngHistory := by
  unfold commitUnpadded; split <;> rfl
@[simp] theorem commitUnpadded_rngAnswers (b : List Byte) (s : State) : (commitUnpadded b s).rngAnswers = s.rngAnswers := by
  unfold commitUnpadded; split <;> rfl
@[simp] theorem commitUnpadded_resets (b : List Byte) (s : State) : (commitUnpadded b s).resets = s.resets := by
  unfold commitUnpadded; split <;> rfl
@[simp] theorem commitUnpadded_busyWindow (b : List Byte) (s : State) : (commitUnpadded b s).busyWindow = s.busyWindow := by
  unfold commitUnpadded; split <;> rfl
@[simp] theorem commitUnpadded_rdata (b : List Byte) (s : State) : (commitUnpadded b s).rdata = s.rdata := by
  unfold commitUnpadded; split <;> rfl
@[simp] theorem commitUnpadded_turns (b : List Byte) (s : State) : (commitUnpadded b s).turns = s.turns := by
  unfold commitUnpadded; split <;> rfl
@[simp] theorem commitUnpadded_busy (b : List Byte) (s : State) : (commitUnpadded b s).busy = false := by
  unfold commitUnpadded; split <;> rfl

/-- What `commitUnpadded` does: a rejection when the padding is malformed, else a commit of the plaintext. -/
theorem commitUnpadded_cases (b : List Byte) (s : State) :
    (pkcs7Unpad b = none ∧ commitUnpadded b s = reject .invalidPadding s) ∨
    (∃ r, pkcs7Unpad b = some r ∧ commitUnpadded b s = commitAtDst r s) := by
  unfold commitUnpadded
  cases pkcs7Unpad b with
  | none => exact .inl ⟨rfl, rfl⟩
  | some r => exact .inr ⟨r, rfl, rfl⟩

end Sys2Proof.Machine
end

