-- ==== Sys2Proof/Laws/Ops.lean ====
section
/-! SUPPORT. One lemma per shared operation of the meanings, which says once everything it can do. -/

namespace Sys2Proof.Machine

/-- Under CBC the configuration refuses nothing. -/
theorem underConfig_cbc {s : State} (h : s.cfg.chainMode = .cbc) (r : Result) : underConfig s r = r := by
  simp [underConfig, h]

/-- What `underConfig` answers: its argument under CBC, else the refusal of the configuration. -/
theorem underConfig_cases (s : State) (r : Result) :
    (s.cfg.chainMode = .cbc ∧ underConfig s r = r) ∨
    (s.cfg.chainMode ≠ .cbc ∧ underConfig s r = .fault (.configRefused s.cfg.chainMode)) := by
  unfold underConfig
  cases h : s.cfg.chainMode with
  | cbc => exact .inl ⟨rfl, rfl⟩
  | other n => exact .inr ⟨by simp, rfl⟩

theorem underConfig_next {s t : State} {r : Result} (h : underConfig s r = .next t) :
    s.cfg.chainMode = .cbc ∧ r = .next t := by
  rcases underConfig_cases s r with ⟨hc, hr⟩ | ⟨-, hr⟩
  · exact ⟨hc, hr ▸ h⟩
  · simp [hr] at h

/-- A command whose checks all pass runs its body. -/
theorem checked_pass {i : Instr} {s : State} (hc : s.cfg.chainMode = .cbc) (hp : preError i s = none) (body : Result) :
    checked i s body = body := by
  simp [checked, underConfig, hc, hp]

/-- A command whose check fails is rejected. -/
theorem checked_fail {i : Instr} {s : State} {e : ErrCode} (hc : s.cfg.chainMode = .cbc) (hp : preError i s = some e)
    (body : Result) : checked i s body = .next (reject e s) := by
  simp [checked, underConfig, hc, hp]

/-- What a command can do before its body: nothing, the rejection of the first failing check, or the configuration's refusal. -/
theorem checked_next {i : Instr} {s t : State} {body : Result} (h : checked i s body = .next t) :
    s.cfg.chainMode = .cbc ∧
    ((∃ e, preError i s = some e ∧ t = reject e s) ∨ (preError i s = none ∧ body = .next t)) := by
  obtain ⟨hc, h⟩ := underConfig_next h
  refine ⟨hc, ?_⟩
  cases hp : preError i s with
  | none => rw [hp] at h; exact .inr ⟨rfl, h⟩
  | some e =>
    rw [hp] at h
    exact .inl ⟨e, rfl, by simpa using h.symm⟩

theorem fatalError_set {s : State} (h : s.fatal = true) : fatalError s = some .entropySourceUnavailable := by
  simp [fatalError, h]

theorem fatalError_clear {s : State} (h : s.fatal = false) : fatalError s = none := by
  simp [fatalError, h]

/-- FATAL ranks first. -/
theorem preError_fatal {s : State} (i : Instr) (h : s.fatal = true) : preError i s = some .entropySourceUnavailable := by
  simp [preError, fatalError_set h]

/-- A command that reaches its body found FATAL clear and its ranges inside DMEM. -/
theorem preError_none {i : Instr} {s : State} (h : preError i s = none) :
    s.fatal = false ∧ rangeFits s.cfg.dmemSize (sourceRange i s) = true ∧
    rangeFits s.cfg.dmemSize (destRange i s) = true := by
  obtain ⟨hf, hb, -⟩ := by simpa only [preError, Option.or_eq_none_iff] using h
  refine ⟨by simpa [fatalError] using hf, ?_⟩
  unfold boundsError at hb
  split at hb <;> simp_all

theorem withSource_next {n : Nat} {s t : State} {k : List Byte → Result} (h : withSource n s k = .next t) :
    ∃ m, memRead s.dmem s.src.toNat n = .bytes m ∧ k m = .next t := by
  unfold withSource at h
  split at h
  next m hm => exact ⟨m, hm, h⟩
  · simp at h

theorem withSource_bytes {n : Nat} {s : State} {m : List Byte} (h : memRead s.dmem s.src.toNat n = .bytes m)
    (k : List Byte → Result) : withSource n s k = k m := by
  simp [withSource, h]

/-- The body of a command that has passed its checks: the next state it commits, given the bytes it read. -/
def committed (i : Instr) (s : State) (m : List Byte) : State :=
  match i with
  | .shaInit => commit 0 { s with sha := shaInitContext s.freeCount }
  | .shaAbsorb => commit 0 { s with sha := shaAbsorbBytes s.sha m }
  | .shaFinal => commitAtDst (shaDigest (shaFinalHash s.sha)) { s with sha := shaFinalContext s.freeCount s.sha }
  | .aesKey => commit 0 { s with aes := loadKey s.freeCount m }
  | .aesEnc => commitAtDst (aesCipher (keyWords s) s.aes.nr m) s
  | .aesDec => commitAtDst (aesInvCipher (keyWords s) s.aes.nr m) s
  | .pad => commitAtDst (pkcs7Pad m) s
  | .unpad => commitUnpadded m s
  | .encrypt => commitEncrypted (rngDraws 16 s) m (rngAfter 16 s)
  | .decrypt => commitUnpadded (chainDec (keyWords s) s.aes.nr (ivBytes s) m) s
  | .rngGet => commit 0 { rngAfter 1 s with rngout := (rngNext s).setWidth 32 }

/-- The number of bytes a command reads at SRC (40_command_cycle.md R124; 0 for a command without a source range). -/
def sourceLength (i : Instr) (s : State) : Nat := ((sourceRange i s).map Prod.snd).getD 0

/-- Everything a command can do when it answers a next state: its rejection by the first failing check, or its commit
from the bytes it read. -/
theorem exec_next {i : Instr} {s t : State} (h : exec i s = .next t) :
    s.cfg.chainMode = .cbc ∧
    ((∃ e, preError i s = some e ∧ t = reject e s) ∨
     (preError i s = none ∧ ∃ m, memRead s.dmem s.src.toNat (sourceLength i s) = .bytes m ∧ t = committed i s m)) := by
  cases i <;> obtain ⟨hc, h | ⟨hp, h⟩⟩ := checked_next h <;> refine ⟨hc, ?_⟩ <;>
    first
    | exact .inl h
    | (obtain ⟨m, hm, h⟩ := withSource_next h
       exact .inr ⟨hp, m, hm, by simpa [committed] using h.symm⟩)
    | exact .inr ⟨hp, [], by simp [sourceLength, sourceRange, memRead], by simpa [committed] using h.symm⟩

/-- A command whose checks pass and whose source is written commits. -/
theorem exec_commits {i : Instr} {s : State} {m : List Byte} (hc : s.cfg.chainMode = .cbc) (hp : preError i s = none)
    (hm : memRead s.dmem s.src.toNat (sourceLength i s) = .bytes m) : exec i s = .next (committed i s m) := by
  cases i <;> refine (checked_pass hc hp _).trans ?_ <;>
    first
    | exact withSource_bytes hm _
    | rfl

/-- A command whose check fails is rejected with the first failing check's code. -/
theorem exec_rejects {i : Instr} {s : State} {e : ErrCode} (hc : s.cfg.chainMode = .cbc) (hp : preError i s = some e) :
    exec i s = .next (reject e s) := by
  cases i <;> exact checked_fail hc hp _

/-- A command whose checks pass and whose source range holds an unwritten byte stops with the model fault. -/
theorem exec_unwritten {i : Instr} {s : State} {a : Nat} (hc : s.cfg.chainMode = .cbc) (hp : preError i s = none)
    (hm : memRead s.dmem s.src.toNat (sourceLength i s) = .unwritten a) : exec i s = .fault (.unwrittenRead a) := by
  cases i <;>
    first
    | (simp [sourceLength, sourceRange, memRead] at hm; done)
    | (refine (checked_pass hc hp _).trans ?_
       simp only [sourceLength, sourceRange, Option.map_some, Option.getD_some] at hm
       simp [withSource, hm])

/-- Under CBC there are three cases: the first failing check, the commit, an unwritten source byte. -/
theorem exec_cases (i : Instr) {s : State} (hc : s.cfg.chainMode = .cbc) :
    (∃ e, preError i s = some e ∧ exec i s = .next (reject e s)) ∨
    (preError i s = none ∧ ∃ m, memRead s.dmem s.src.toNat (sourceLength i s) = .bytes m ∧
      exec i s = .next (committed i s m)) ∨
    (preError i s = none ∧ ∃ a, memRead s.dmem s.src.toNat (sourceLength i s) = .unwritten a ∧
      exec i s = .fault (.unwrittenRead a)) := by
  cases hp : preError i s with
  | some e => exact .inl ⟨e, rfl, exec_rejects hc hp⟩
  | none =>
    cases hm : memRead s.dmem s.src.toNat (sourceLength i s) with
    | bytes m => exact .inr (.inl ⟨rfl, m, rfl, exec_commits hc hp hm⟩)
    | unwritten a => exact .inr (.inr ⟨rfl, a, rfl, exec_unwritten hc hp hm⟩)

/-- A command that reads source bytes has a source range, at SRC. -/
theorem sourceRange_of_pos {i : Instr} {s : State} (h : 0 < sourceLength i s) :
    sourceRange i s = some (s.src.toNat, sourceLength i s) := by
  cases i <;> first | rfl | simp [sourceLength, sourceRange] at h

end Sys2Proof.Machine
end

