-- ==== Sys2Proof/Laws/PerInstr.lean ====
section
/-! SUPPORT. A family of statements about each command as syntax: it is well formed, its word is legal, and its word,
given to the decoder as a value or as four bytes in bus order, is read back as the command. -/

namespace Sys2Proof.Laws.RoundTrip

/-- What holds of the encoding of every command (30_encoding.md R91 to R97). -/
def Statement (i : Instr) : Prop :=
  i.wf = true ∧ wordWellFormed (encode i) = true ∧ decode (encode i) = .command i ∧
  decodeTableWord 32 (encode i).toNat = some i

theorem shaInit : Statement .shaInit := by refine ⟨?_, ?_, ?_, ?_⟩ <;> decide
theorem shaAbsorb : Statement .shaAbsorb := by refine ⟨?_, ?_, ?_, ?_⟩ <;> decide
theorem shaFinal : Statement .shaFinal := by refine ⟨?_, ?_, ?_, ?_⟩ <;> decide
theorem aesKey : Statement .aesKey := by refine ⟨?_, ?_, ?_, ?_⟩ <;> decide
theorem aesEnc : Statement .aesEnc := by refine ⟨?_, ?_, ?_, ?_⟩ <;> decide
theorem aesDec : Statement .aesDec := by refine ⟨?_, ?_, ?_, ?_⟩ <;> decide
theorem pad : Statement .pad := by refine ⟨?_, ?_, ?_, ?_⟩ <;> decide
theorem unpad : Statement .unpad := by refine ⟨?_, ?_, ?_, ?_⟩ <;> decide
theorem encrypt : Statement .encrypt := by refine ⟨?_, ?_, ?_, ?_⟩ <;> decide
theorem decrypt : Statement .decrypt := by refine ⟨?_, ?_, ?_, ?_⟩ <;> decide
theorem rngGet : Statement .rngGet := by refine ⟨?_, ?_, ?_, ?_⟩ <;> decide

end Sys2Proof.Laws.RoundTrip
end

