-- ==== Sys2Proof/Laws/Step.lean ====
section
/-! SUPPORT. What a step can do, said once: the turns, the sequencer's turn, a host access; the reset's memory. -/

namespace Sys2Proof.Machine

/-- An address inside the window falls at its offset. -/
theorem busOffset_window (c : Config) {off : Nat} (h : off < 0x10000) : busOffset c (c.coreBase + off) = some off := by
  simp [busOffset, h]

theorem step_idle {s : State} (h : s.turns = []) : step s = sequencerTurn s := by
  simp [step, h]

theorem step_sequencer {s : State} {ts : List Turn} (h : s.turns = .sequencer :: ts) :
    step s = sequencerTurn { s with turns := ts } := by
  simp [step, h]

/-- The sequencer's turn, in both of its forms. -/
theorem step_sequencerNext {s : State} {ts : List Turn} (h : SequencerNext s ts) :
    step s = sequencerTurn { s with turns := ts } := by
  obtain ⟨h, rfl⟩ | h := h
  · rw [step_idle h, ← h]
  · exact step_sequencer h

theorem step_host {s : State} {a : HostAccess} {ts : List Turn} (h : s.turns = .host a :: ts) :
    step s = hostAccess a { s with turns := ts } := by
  simp [step, h]

theorem step_reset {s : State} {p : Bool} {ts : List Turn} (h : s.turns = .reset p :: ts) :
    step s = underConfig s (.next (platformReset p { s with turns := ts })) := by
  simp [step, h, underConfig]

/-- A step that answers a next state is a turn of the sequencer, of the host or of the platform. -/
theorem step_cases {s t : State} (h : step s = .next t) :
    (s.turns = [] ∧ sequencerTurn s = .next t) ∨
    (∃ ts, s.turns = .sequencer :: ts ∧ sequencerTurn { s with turns := ts } = .next t) ∨
    (∃ a ts, s.turns = .host a :: ts ∧ hostAccess a { s with turns := ts } = .next t) ∨
    (∃ p ts, s.turns = .reset p :: ts ∧ t = platformReset p { s with turns := ts }) := by
  cases hs : s.turns with
  | nil => exact .inl ⟨rfl, by rwa [step_idle hs] at h⟩
  | cons x ts =>
    cases x with
    | sequencer => exact .inr (.inl ⟨ts, rfl, by rwa [step_sequencer hs] at h⟩)
    | host a => exact .inr (.inr (.inl ⟨a, ts, rfl, by rwa [step_host hs] at h⟩))
    | reset p =>
      rw [step_reset hs] at h
      obtain ⟨-, h⟩ := underConfig_next h
      exact .inr (.inr (.inr ⟨p, ts, rfl, by simpa using h.symm⟩))

/-- The sequencer's turn on a command word. -/
theorem sequencerTurn_command {s : State} {i : Instr} (hb : s.busy = true) (hd : decode s.pending = .command i) :
    sequencerTurn s = exec i s := by
  simp [sequencerTurn, executePending, hb, hd]

/-- The sequencer's turn on an illegal word. -/
theorem sequencerTurn_illegal {s : State} (hc : s.cfg.chainMode = .cbc) (hb : s.busy = true)
    (hd : decode s.pending = .illegal) :
    sequencerTurn s = .next (reject ((fatalError s).getD .illegalCommand) s) := by
  simp [sequencerTurn, executePending, illegalWord, underConfig, hc, hb, hd]

/-- A sequencer's turn that answers a next state: a command, an illegal word's rejection, or nothing when idle. -/
theorem sequencerTurn_next {s t : State} (h : sequencerTurn s = .next t) :
    s.cfg.chainMode = .cbc ∧
    ((s.busy = true ∧ ∃ i, decode s.pending = .command i ∧ exec i s = .next t) ∨
     (s.busy = true ∧ decode s.pending = .illegal ∧ t = reject ((fatalError s).getD .illegalCommand) s) ∨
     (s.busy = false ∧ t = s)) := by
  unfold sequencerTurn at h
  split at h
  next hb =>
    unfold executePending at h
    split at h
    next i hd => exact ⟨(exec_next h).1, .inl ⟨hb, i, hd, h⟩⟩
    next hd =>
      obtain ⟨hc, h⟩ := underConfig_next h
      exact ⟨hc, .inr (.inl ⟨hb, hd, by simpa using h.symm⟩)⟩
  next hb =>
    obtain ⟨hc, h⟩ := underConfig_next h
    exact ⟨hc, .inr (.inr ⟨by simpa using hb, by simpa using h.symm⟩)⟩

/-! ### A host write of a register, field by field -/

@[simp] theorem regWrite_cfg (v : Word) (s : State) (r : HostReg) : (regWrite v s r).cfg = s.cfg := by
  cases r <;> rfl

@[simp] theorem regWrite_outlen (v : Word) (s : State) (r : HostReg) : (regWrite v s r).outlen = s.outlen := by
  cases r <;> rfl

@[simp] theorem regWrite_rngout (v : Word) (s : State) (r : HostReg) : (regWrite v s r).rngout = s.rngout := by
  cases r <;> rfl

@[simp] theorem regWrite_err (v : Word) (s : State) (r : HostReg) : (regWrite v s r).err = s.err := by
  cases r <;> rfl

@[simp] theorem regWrite_fatal (v : Word) (s : State) (r : HostReg) : (regWrite v s r).fatal = s.fatal := by
  cases r <;> rfl

@[simp] theorem regWrite_sha (v : Word) (s : State) (r : HostReg) : (regWrite v s r).sha = s.sha := by
  cases r <;> rfl

@[simp] theorem regWrite_aes (v : Word) (s : State) (r : HostReg) : (regWrite v s r).aes = s.aes := by
  cases r <;> rfl

@[simp] theorem regWrite_dmem (v : Word) (s : State) (r : HostReg) : (regWrite v s r).dmem = s.dmem := by
  cases r <;> rfl

@[simp] theorem regWrite_rngHistory (v : Word) (s : State) (r : HostReg) : (regWrite v s r).rngHistory = s.rngHistory := by
  cases r <;> rfl

@[simp] theorem regWrite_rngAnswers (v : Word) (s : State) (r : HostReg) : (regWrite v s r).rngAnswers = s.rngAnswers := by
  cases r <;> rfl

@[simp] theorem regWrite_resets (v : Word) (s : State) (r : HostReg) : (regWrite v s r).resets = s.resets := by
  cases r <;> rfl

@[simp] theorem regWrite_freeCount (v : Word) (s : State) (r : HostReg) : (regWrite v s r).freeCount = s.freeCount := by
  cases r <;> rfl

@[simp] theorem regWrite_rdata (v : Word) (s : State) (r : HostReg) : (regWrite v s r).rdata = s.rdata := by
  cases r <;> rfl

@[simp] theorem regWrite_turns (v : Word) (s : State) (r : HostReg) : (regWrite v s r).turns = s.turns := by
  cases r <;> rfl

theorem regWrite_at_cmd (v : Word) (s : State) : regWrite v s .cmd = issue v s := rfl

theorem regWrite_at_status (v : Word) (s : State) : regWrite v s .status = s := rfl

theorem regWrite_at_src (v : Word) (s : State) : regWrite v s .src = { s with src := v } := rfl

theorem regWrite_at_len (v : Word) (s : State) : regWrite v s .len = { s with len := v } := rfl

theorem regWrite_at_dst (v : Word) (s : State) : regWrite v s .dst = { s with dst := v } := rfl

theorem regWrite_at_outlen (v : Word) (s : State) : regWrite v s .outlen = s := rfl

theorem regWrite_at_rngout (v : Word) (s : State) : regWrite v s .rngout = s := rfl

theorem regWrite_at_iv (v : Word) (s : State) (k : Fin 4) :
    regWrite v s (.iv k) = { s with iv := ivSetWord s.iv k v } := rfl

@[simp] theorem regReadDone_cfg (r : HostReg) (s : State) : (regReadDone r s).cfg = s.cfg := by
  cases r <;> rfl

@[simp] theorem regReadDone_cmd (r : HostReg) (s : State) : (regReadDone r s).cmd = s.cmd := by
  cases r <;> rfl

@[simp] theorem regReadDone_src (r : HostReg) (s : State) : (regReadDone r s).src = s.src := by
  cases r <;> rfl

@[simp] theorem regReadDone_len (r : HostReg) (s : State) : (regReadDone r s).len = s.len := by
  cases r <;> rfl

@[simp] theorem regReadDone_dst (r : HostReg) (s : State) : (regReadDone r s).dst = s.dst := by
  cases r <;> rfl

@[simp] theorem regReadDone_outlen (r : HostReg) (s : State) : (regReadDone r s).outlen = s.outlen := by
  cases r <;> rfl

@[simp] theorem regReadDone_rngout (r : HostReg) (s : State) : (regReadDone r s).rngout = s.rngout := by
  cases r <;> rfl

@[simp] theorem regReadDone_iv (r : HostReg) (s : State) : (regReadDone r s).iv = s.iv := by
  cases r <;> rfl

@[simp] theorem regReadDone_err (r : HostReg) (s : State) : (regReadDone r s).err = s.err := by
  cases r <;> rfl

@[simp] theorem regReadDone_fatal (r : HostReg) (s : State) : (regReadDone r s).fatal = s.fatal := by
  cases r <;> rfl

@[simp] theorem regReadDone_busy (r : HostReg) (s : State) : (regReadDone r s).busy = s.busy := by
  cases r <;> rfl

@[simp] theorem regReadDone_pending (r : HostReg) (s : State) : (regReadDone r s).pending = s.pending := by
  cases r <;> rfl

@[simp] theorem regReadDone_sha (r : HostReg) (s : State) : (regReadDone r s).sha = s.sha := by
  cases r <;> rfl

@[simp] theorem regReadDone_aes (r : HostReg) (s : State) : (regReadDone r s).aes = s.aes := by
  cases r <;> rfl

@[simp] theorem regReadDone_dmem (r : HostReg) (s : State) : (regReadDone r s).dmem = s.dmem := by
  cases r <;> rfl

@[simp] theorem regReadDone_rngHistory (r : HostReg) (s : State) : (regReadDone r s).rngHistory = s.rngHistory := by
  cases r <;> rfl

@[simp] theorem regReadDone_rngAnswers (r : HostReg) (s : State) : (regReadDone r s).rngAnswers = s.rngAnswers := by
  cases r <;> rfl

@[simp] theorem regReadDone_resets (r : HostReg) (s : State) : (regReadDone r s).resets = s.resets := by
  cases r <;> rfl

@[simp] theorem regReadDone_freeCount (r : HostReg) (s : State) : (regReadDone r s).freeCount = s.freeCount := by
  cases r <;> rfl

@[simp] theorem regReadDone_turns (r : HostReg) (s : State) : (regReadDone r s).turns = s.turns := by
  cases r <;> rfl

/-- The target of a legal access. -/
theorem busTarget_some {size width off : Nat} {x : Target} (h : busTarget size width off = some x) :
    (∃ r, x = .reg r ∧ off < 0x1000 ∧ width = 32 ∧ regAt off = some r) ∨
    (x = .dmem (off - 0x1000) (width / 8) ∧ 0x1000 ≤ off ∧ (width = 8 ∨ width = 16 ∨ width = 32) ∧
      off % (width / 8) = 0 ∧ off - 0x1000 + width / 8 ≤ size) := by
  unfold busTarget at h
  split at h
  next hoff =>
    split at h
    next hw =>
      obtain ⟨r, hr, rfl⟩ := Option.map_eq_some_iff.1 h
      exact .inl ⟨r, rfl, hoff, hw, hr⟩
    · simp at h
  next hoff =>
    split at h
    next hc => exact .inr ⟨by simpa using h.symm, by omega, hc.1, hc.2.1, hc.2.2⟩
    · simp at h

/-- What a host access that answers a next state has done: a register read or write, a DMEM read or write, or nothing,
its address lying outside the window. -/
theorem hostAccess_next {s t : State} {a : HostAccess} (h : hostAccess a s = .next t) :
    s.cfg.chainMode = .cbc ∧
    (t = s ∨ (∃ r, t = regReadDone r s) ∨ (∃ v, t = { s with rdata := v }) ∨
     (inBusyWindow s = false ∧
      ((∃ r v, t = regWrite v s r) ∨
       (∃ c bs, c + bs.length ≤ s.cfg.dmemSize ∧ t = { s with dmem := memWrite s.dmem c bs })))) := by
  obtain ⟨hc, h⟩ := underConfig_next h
  refine ⟨hc, ?_⟩
  cases a with
  | read width addr =>
    simp only at h
    split at h
    · unfold hostRead at h
      split at h
      · simp at h
      · split at h
        · simp at h
        next r _ => exact .inr (.inl ⟨r, by simpa using h.symm⟩)
        · split at h
          next bs _ => exact .inr (.inr (.inl ⟨busValue bs, by simpa using h.symm⟩))
          · simp at h
    · exact .inl (by simpa using h.symm)
  | write width addr v =>
    simp only at h
    split at h
    · unfold hostWrite at h
      split at h
      · simp at h
      next hw =>
        refine .inr (.inr (.inr ⟨by simpa using hw, ?_⟩))
        split at h
        · simp at h
        next r _ => exact .inl ⟨r, v, by simpa using h.symm⟩
        next c n hx =>
          obtain ⟨r, hr, -⟩ | ⟨hx, -, -, -, fits⟩ := busTarget_some hx
          · simp at hr
          · rw [Target.dmem.injEq] at hx
            refine .inr ⟨c, busBytes v n, ?_, by simpa using h.symm⟩
            rw [busBytes, List.length_map, List.length_range, hx.1, hx.2]
            exact fits
    · exact .inl (by simpa using h.symm)

/-- The memory of every reset state lists nothing, so it is in canonical form. -/
theorem afterReset_dmem_wf (cfg : Config) (present : Bool) : Memory.wf (State.afterReset cfg present).dmem = true := rfl

theorem reset_dmem_wf : Memory.wf State.reset.dmem = true := rfl

/-- The issued word is the one the next step runs. -/
theorem withFetchWord_step (s : State) (nbits w : Nat) :
    step (s.withFetchWord nbits w) = executePending (s.withFetchWord nbits w) := rfl

end Sys2Proof.Machine
end

