-- ==== Sys2Proof/Tests/Slice0.lean ====
section
/-! SUPPORT. The model's own tests. Part 1: words, configurations and vectors of 95_test_vectors.md (each theorem names
its vectors), one step each. Part 2: for every obligation that has hypotheses, a state and operands that meet them. -/

namespace Sys2Proof.Tests

open Sys2Proof.Machine

set_option Elab.async false

/-! ## Helpers -/

/-- `n` bytes, the most significant byte of the hexadecimal numeral first. -/
def hx (n v : Nat) : List Byte := (List.range n).map fun i => BitVec.ofNat 8 (v / 256 ^ (n - 1 - i))

/-- `n` bytes of value `v`. -/
def rep (n : Nat) (v : Byte) : List Byte := List.replicate n v

/-- After reset, with the operand registers set and one byte string in DMEM. -/
def at_ (src len dst : Word) (a : Nat) (bs : List Byte) : State :=
  { State.reset with src := src, len := len, dst := dst, dmem := memWrite [] a bs }

/-- With a key loaded (AES_KEY's result on `k`). -/
def keyed (k : List Byte) (s : State) : State := { s with aes := loadKey 0 k }

/-- With a Ready context that has absorbed `m`. -/
def hashing (m : List Byte) (s : State) : State := { s with sha := shaAbsorbBytes (shaInitContext 0) m }

/-- With the RNG unit's next answers `00, 01, …` (44_rng.md R295). -/
def answers (n : Nat) (s : State) : State := { s with rngAnswers := (List.range n).map fun i => BitVec.ofNat 8 i }

/-- With the turns to come. -/
def turned (ts : List Turn) (s : State) : State := { s with turns := ts }

/-- With the command word `w` issued. -/
def issued (w : Word) (s : State) : State := issue w s

/-- What a step or a command leaves: the code in STATUS.ERR and OUTLEN. -/
def ended (r : Result) : Option (BitVec 4 × Word) :=
  match r with
  | .next t => some (errCode t.err, t.outlen)
  | _ => none

/-- A value of the next state. -/
def seen {α : Type} (f : State → α) (r : Result) : Option α :=
  match r with
  | .next t => some (f t)
  | _ => none

/-- The fault of an outcome. -/
def faulted (r : Result) : Option Fault :=
  match r with
  | .fault x => some x
  | _ => none

/-- The key of V-AES-K1 and of the CBC vectors. -/
def key128 : List Byte := hx 16 0x2b7e151628aed2a6abf7158809cf4f3c

/-- The key of V-AES-B3. -/
def key256 : List Byte := hx 32 0x000102030405060708090a0b0c0d0e0f101112131415161718191a1b1c1d1e1f

/-! ## Decoding: every command word of 30_encoding.md R92, bit 31 first -/

theorem test_decode_shaInit : decode 0b00000000000000000000000000000001#32 = .command .shaInit := by decide
theorem test_decode_shaAbsorb : decode 0b00000000000000000000000000000010#32 = .command .shaAbsorb := by decide
theorem test_decode_shaFinal : decode 0b00000000000000000000000000000011#32 = .command .shaFinal := by decide
theorem test_decode_aesKey : decode 0b00000000000000000000000000010000#32 = .command .aesKey := by decide
theorem test_decode_aesEnc : decode 0b00000000000000000000000000010001#32 = .command .aesEnc := by decide
theorem test_decode_aesDec : decode 0b00000000000000000000000000010010#32 = .command .aesDec := by decide
theorem test_decode_pad : decode 0b00000000000000000000000000100000#32 = .command .pad := by decide
theorem test_decode_unpad : decode 0b00000000000000000000000000100001#32 = .command .unpad := by decide
theorem test_decode_encrypt : decode 0b00000000000000000000000000100010#32 = .command .encrypt := by decide
theorem test_decode_decrypt : decode 0b00000000000000000000000000100011#32 = .command .decrypt := by decide
theorem test_decode_rngGet : decode 0b00000000000000000000000000110000#32 = .command .rngGet := by decide

/-- The low byte of the word is the first byte on the bus (20_memory.md R65); a word has four bytes (30_encoding.md R90). -/
theorem test_decode_bytes :
    decodeBytes [0x22#8, 0x00#8, 0x00#8, 0x00#8] = .command .encrypt ∧
    decodeBytes [0x00#8, 0x00#8, 0x00#8, 0x22#8] = .illegal ∧ decodeBytes [0x22#8] = .illegal ∧
    decodeTableWord 32 0x22 = some .encrypt ∧ decodeTableWord 32 0x102 = none ∧
    decodeTableWord 32 0x100000022 = none := by decide

/-! ## WellFormed: an ill-formed term for each check -/

/-- RSVD nonzero: V-E2 and its highest bit. -/
theorem test_wf_reserved :
    reservedFieldClear 0x00000102#32 = false ∧ reservedFieldClear 0x80000001#32 = false ∧
    wordWellFormed 0x00000102#32 = false ∧ decode 0x00000102#32 = .illegal := by decide

/-- Unassigned opcodes: the ends of each range of 30_encoding.md R95. -/
theorem test_wf_unassigned :
    [0x00#32, 0x04#32, 0x0F#32, 0x13#32, 0x1F#32, 0x24#32, 0x2F#32, 0x31#32, 0xFF#32].all
      (fun w => !opcodeAssigned w && !wordWellFormed w && decode w == .illegal) = true := by decide

theorem test_wf_accepts :
    [0x01#32, 0x03#32, 0x10#32, 0x12#32, 0x20#32, 0x23#32, 0x30#32].all wordWellFormed = true := by decide

/-- `CORE_BASE` not aligned to 0x10000 (00_scope.md R7). -/
theorem test_config_base :
    Config.baseAligned { Config.testPrograms with coreBase := 0x8000 } = false ∧
    Config.legal { Config.testPrograms with coreBase := 0x8000 } = false := by decide

/-- `DMEM_SIZE` no multiple of 16, too small, too large (00_scope.md R7). -/
theorem test_config_size :
    ∀ n ∈ [1000, 48, 0xF010], Config.sizeLegal { Config.testPrograms with dmemSize := n } = false ∧
      Config.legal { Config.testPrograms with dmemSize := n } = false := by decide

/-- V-E18: another `CHAIN_MODE`. -/
theorem test_config_mode :
    Config.modeAdmitted { Config.testPrograms with chainMode := .other "ECB" } = false ∧
    faulted (State.start { Config.testPrograms with chainMode := .other "ECB" } true) =
      some (.configRefused (.other "ECB")) := by decide

theorem test_config_accepts :
    Config.legal Config.testPrograms = true ∧ Config.legal { Config.testPrograms with dmemSize := 0xF000 } = true ∧
    Config.legal { Config.testPrograms with dmemSize := 64, coreBase := 0x30000 } = true := by decide

/-! ## SHA-256 -/

/-- V-SHA-F1 to F6. -/
theorem test_sha_functions :
    let x := 0x12345678#32
    let y := 0x9abcdef0#32
    let z := 0x0fedcba9#32
    shaCh x y z = 0x1ffddff1#32 ∧ shaMaj x y z = 0x1abcdef8#32 ∧ shaBig0 x = 0x66146474#32 ∧
    shaBig1 x = 0x3561abda#32 ∧ shaSmall0 x = 0xe7fce6ee#32 ∧ shaSmall1 x = 0xa1f78649#32 := by decide

/-- V-SHA-P1 and V-SHA-W1 to W5: the padded block of "abc" and its schedule. -/
theorem test_sha_schedule :
    shaTail (shaAbsorbBytes (shaInitContext 0) (hx 3 0x616263)) = hx 4 0x61626380 ++ rep 59 0x00#8 ++ [0x18#8] ∧
    ((shaSchedule (hx 4 0x61626380 ++ rep 59 0x00#8 ++ [0x18#8])).drop 16).take 4 =
      [0x61626380#32, 0x000f0000#32, 0x7da86405#32, 0x600003c6#32] := by decide +kernel

/-- V-SHA-R1: round 0 of "abc". -/
theorem test_sha_round :
    shaRound shaH0 0x428a2f98#32 0x61626380#32 =
      ⟨0x5d6aebcd#32, 0x6a09e667#32, 0xbb67ae85#32, 0x3c6ef372#32, 0xfa2a4622#32, 0x510e527f#32, 0x9b05688c#32,
       0x1f83d9ab#32⟩ := by decide

/-- V-SHA-X10: SHA_INIT after reset sets SHA_READY. -/
theorem test_sha_init : seen (fun t => (statusWord t, t.outlen, t.sha.shabuflen.val)) (exec .shaInit State.reset) =
    some (0x00010000#32, 0#32, 0) := by decide +kernel

/-- V-SHA-A2: the 64th byte compresses. -/
theorem test_sha_absorb :
    seen (fun t => (t.sha.h, t.sha.shabuflen.val, t.sha.shatotlen)) (exec .shaAbsorb (hashing (rep 63 0x61#8)
      (at_ 0#32 1#32 0#32 0 [0x61#8]))) =
    some (⟨0xdf5bb81c#32, 0xe81e0626#32, 0xfb45a894#32, 0x4fd40f31#32, 0xb25e6816#32, 0xd6d499c1#32, 0xab904929#32,
           0x00635e66#32⟩, 0, 64#64) := by decide +kernel

/-- V-SHA-X1, X3, X4, X5 and X9. -/
theorem test_sha_absorb_checks :
    ended (exec .shaAbsorb (at_ 0#32 3#32 0#32 0 [])) = some (5#4, 0#32) ∧
    ended (exec .shaAbsorb (hashing [] (at_ 1024#32 0#32 0#32 0 []))) = some (0#4, 0#32) ∧
    ended (exec .shaAbsorb (hashing [] (at_ 1025#32 0#32 0#32 0 []))) = some (7#4, 0#32) ∧
    ended (exec .shaAbsorb (hashing [] (at_ 0xFFFFFFFF#32 2#32 0#32 0 []))) = some (7#4, 0#32) ∧
    faulted (exec .shaAbsorb (hashing [] (at_ 0#32 4#32 0#32 1 [0x61#8]))) = some (.unwrittenRead 0) := by decide +kernel

/-- V-SHA-D2: "abc". -/
theorem test_sha_final :
    seen (fun t => (t.outlen, statusWord t, memRead t.dmem 0x40 32)) (exec .shaFinal (hashing (hx 3 0x616263)
      (at_ 0#32 0#32 0x40#32 0 []))) =
    some (32#32, 0#32, .bytes (hx 32 0xba7816bf8f01cfea414140de5dae2223b00361a396177a9cb410ff61f20015ad)) := by
  decide +kernel

/-- V-SHA-D6: 56 bytes, two final blocks. V-SHA-X6 and X7: the range check ranks before the context's. -/
theorem test_sha_final_two_blocks :
    seen (fun t => memRead t.dmem 992 32) (exec .shaFinal (hashing (rep 56 0x61#8) (at_ 0#32 0#32 992#32 0 []))) =
      some (.bytes (hx 32 0xb35439a4ac6f0948b6d6f9e3c6af0f5f590ce20f1bde7090ef7970686ec6738a)) ∧
    ended (exec .shaFinal (at_ 0#32 0#32 1000#32 0 [])) = some (7#4, 0#32) ∧
    ended (exec .shaFinal (at_ 0#32 0#32 992#32 0 [])) = some (5#4, 0#32) := by decide +kernel

/-! ## AES -/

/-- V-AES-G1 to G11. -/
theorem test_aes_field :
    xtime 0x57#8 = 0xae#8 ∧ xtime 0x80#8 = 0x1b#8 ∧ gfMul 0x57#8 0x83#8 = 0xc1#8 ∧ gfMul 0x57#8 0x13#8 = 0xfe#8 ∧
    gfInv 0x53#8 = 0xca#8 ∧ sbox 0x00#8 = 0x63#8 ∧ sbox 0x53#8 = 0xed#8 ∧ sbox 0xff#8 = 0x16#8 ∧
    invSbox 0x63#8 = 0x00#8 ∧ invSbox 0xed#8 = 0x53#8 ∧
    [1, 2, 3, 4, 5, 6, 7, 8, 9, 10].map aesRC = hx 10 0x01020408102040801b36 := by decide +kernel

/-- V-AES-T1 to T5. -/
theorem test_aes_transforms :
    blockOfState (shiftRows (stateOfBlock (hx 16 0x000102030405060708090a0b0c0d0e0f))) =
      hx 16 0x00050a0f04090e03080d02070c01060b ∧
    mixColumn ⟨0xdb#8, 0x13#8, 0x53#8, 0x45#8⟩ = ⟨0x8e#8, 0x4d#8, 0xa1#8, 0xbc#8⟩ ∧
    invMixColumn ⟨0x8e#8, 0x4d#8, 0xa1#8, 0xbc#8⟩ = ⟨0xdb#8, 0x13#8, 0x53#8, 0x45#8⟩ ∧
    subWord 0xcf4f3c09#32 = 0x8a84eb01#32 ∧ rotWord 0x09cf4f3c#32 = 0xcf4f3c09#32 := by decide +kernel

/-- V-AES-K1, K2, K3: an early and the last words of each schedule. -/
theorem test_aes_schedules :
    ((keyExpansion key128).drop 4).take 2 = [0xa0fafe17#32, 0x88542cb1#32] ∧
    (keyExpansion key128).drop 40 = [0xd014f9a8#32, 0xc9ee2589#32, 0xe13f0cc8#32, 0xb6630ca6#32] ∧
    (keyExpansion (hx 24 0x8e73b0f7da0e6452c810f32b809079e562f8ead2522c6b7b)).drop 48 =
      [0xe98ba06f#32, 0x448c773c#32, 0x8ecc7204#32, 0x01002202#32] ∧
    (keyExpansion (hx 32 0x603deb1015ca71be2b73aef0857d77811f352c073b6108d72d9810a30914dff4)).drop 56 =
      [0xfe4890d1#32, 0xe6188d0b#32, 0x046df344#32, 0x706c631e#32] := by decide +kernel

/-- V-AES-C5: round 1 of FIPS-197 Appendix B. -/
theorem test_aes_round :
    blockOfState (encRounds (keyExpansion key128) 1 (addRoundKey (keyExpansion key128) 0
      (stateOfBlock (hx 16 0x3243f6a8885a308d313198a2e0370734)))) = hx 16 0xa49c7ff2689f352b6b5bea43026a5049 := by
  decide +kernel

/-- V-AES-K5, K6, K7: STATUS after each legal length. -/
theorem test_aes_key :
    seen statusWord (exec .aesKey (at_ 0#32 16#32 0#32 0 key256)) = some 0x00020000#32 ∧
    seen statusWord (exec .aesKey (at_ 0#32 24#32 0#32 0 key256)) = some 0x00060000#32 ∧
    seen statusWord (exec .aesKey (at_ 0#32 32#32 0#32 0 key256)) = some 0x000a0000#32 := by decide +kernel

/-- V-AES-K8 to K11, and the 33-byte key that keeps the 24-byte one. -/
theorem test_aes_key_lengths :
    seen statusWord (exec .aesKey (at_ 0#32 0#32 0#32 0 [])) = some 0x00000100#32 ∧
    seen statusWord (exec .aesKey (at_ 0#32 15#32 0#32 0 [])) = some 0x00000100#32 ∧
    seen statusWord (exec .aesKey (at_ 0#32 17#32 0#32 0 [])) = some 0x00000100#32 ∧
    seen statusWord (exec .aesKey (at_ 0#32 33#32 0#32 0 [])) = some 0x00000100#32 ∧
    seen statusWord (exec .aesKey (keyed (rep 24 0x00#8) (at_ 0#32 33#32 0#32 0 []))) = some 0x00060100#32 := by
  decide +kernel

/-- V-AES-B3 and X3: in place at 0x3e0; LEN is not read. V-AES-X1: no key. -/
theorem test_aes_enc :
    seen (fun t => (t.outlen, memRead t.dmem 0x3e0 16)) (exec .aesEnc (keyed key256
      (at_ 0x3e0#32 5#32 0x3e0#32 0x3e0 (hx 16 0x00112233445566778899aabbccddeeff)))) =
      some (16#32, .bytes (hx 16 0x8ea2b7ca516745bfeafc49904b496089)) ∧
    ended (exec .aesEnc (at_ 0#32 0#32 0x100#32 0 [])) = some (6#4, 0#32) := by decide +kernel

/-- V-AES-B10, decrypted. V-AES-X2: no key. -/
theorem test_aes_dec :
    seen (fun t => (t.outlen, memRead t.dmem 0x20 16)) (exec .aesDec (keyed key128
      (at_ 0#32 0#32 0x20#32 0 (hx 16 0x3925841d02dc09fbdc118597196a0b32)))) =
      some (16#32, .bytes (hx 16 0x3243f6a8885a308d313198a2e0370734)) ∧
    ended (exec .aesDec (at_ 0#32 0#32 0x100#32 0 [])) = some (6#4, 0#32) := by decide +kernel

/-! ## Padding and chaining -/

/-- V-PAD-P6 (P2 in place) and P4. -/
theorem test_pad :
    seen (fun t => (t.outlen, memRead t.dmem 0x300 16)) (exec .pad (at_ 0x300#32 3#32 0x300#32 0x300 (hx 3 0x616263))) =
      some (16#32, .bytes (hx 16 0x6162630d0d0d0d0d0d0d0d0d0d0d0d0d)) ∧
    seen (fun t => (t.outlen, memRead t.dmem 0x40 32)) (exec .pad (at_ 0#32 16#32 0x40#32 0 (rep 16 0x00#8))) =
      some (32#32, .bytes (rep 16 0x00#8 ++ rep 16 0x10#8)) := by decide +kernel

/-- V-PAD-P7 and P8: the last place where 16 bytes fit. -/
theorem test_pad_bounds :
    seen (fun t => (t.outlen, memRead t.dmem 1008 16)) (exec .pad (at_ 0#32 0#32 1008#32 0 [])) =
      some (16#32, .bytes (rep 16 0x10#8)) ∧
    seen (fun t => (errCode t.err, t.outlen, t.dmem)) (exec .pad (at_ 0#32 0#32 1009#32 0 [])) =
      some (7#4, 0#32, []) := by decide +kernel

/-- V-PAD-U7, U8 and U11 (in place: the bytes after the plaintext stay). -/
theorem test_unpad :
    seen (fun t => (t.outlen, memRead t.dmem 0x40 13, memByte t.dmem 0x4d)) (exec .unpad (at_ 0#32 16#32 0x40#32 0
      (rep 13 0x00#8 ++ rep 3 0x03#8))) = some (13#32, .bytes (rep 13 0x00#8), none) ∧
    seen (fun t => (errCode t.err, t.outlen, memByte t.dmem 0x40)) (exec .unpad (at_ 0#32 16#32 0x40#32 0 (rep 16 0x10#8))) =
      some (0#4, 0#32, none) ∧
    seen (fun t => (t.outlen, memRead t.dmem 0x300 16)) (exec .unpad (at_ 0x300#32 16#32 0x300#32 0x300
      (hx 16 0x6162630d0d0d0d0d0d0d0d0d0d0d0d0d))) =
      some (3#32, .bytes (hx 16 0x6162630d0d0d0d0d0d0d0d0d0d0d0d0d)) := by decide +kernel

/-- V-PAD-U2 to U6 and U10. -/
theorem test_unpad_rejects :
    ended (exec .unpad (at_ 0#32 0#32 0x40#32 0 [])) = some (2#4, 0#32) ∧
    ended (exec .unpad (at_ 0#32 17#32 0x40#32 0 (rep 17 0x01#8))) = some (2#4, 0#32) ∧
    ended (exec .unpad (at_ 0#32 16#32 0x40#32 0 (rep 16 0x00#8))) = some (2#4, 0#32) ∧
    ended (exec .unpad (at_ 0#32 16#32 0x40#32 0 (rep 15 0x00#8 ++ [0x11#8]))) = some (2#4, 0#32) ∧
    ended (exec .unpad (at_ 0#32 16#32 0x40#32 0 (rep 13 0x00#8 ++ hx 3 0x020303))) = some (2#4, 0#32) ∧
    ended (exec .unpad (at_ 0#32 32#32 1000#32 0 (rep 16 0x00#8 ++ rep 16 0x10#8))) = some (7#4, 0#32) := by
  decide +kernel

/-- V-CH-5 (V-CH-1): two blocks, the IV register, RNGOUT kept (V-RNG-6), 16 draws. -/
theorem test_encrypt :
    seen (fun t => (t.outlen, memRead t.dmem 0x40 32, t.iv.toList, t.rngout, t.rngHistory.length))
      (exec .encrypt (answers 20 (keyed key128 (at_ 0x20#32 16#32 0x40#32 0x20 (hx 16 0x6bc1bee22e409f96e93d7e117393172a))))) =
    some (32#32, .bytes (hx 32 0x7649abac8119b246cee98e9b12e9197d8964e0b149c10b7b682e6e39aaeb731c),
      hx 16 0x000102030405060708090a0b0c0d0e0f, 0#32, 16) := by decide +kernel

/-- V-CH-9: no key, no draw, IV unchanged. -/
theorem test_encrypt_no_key :
    seen (fun t => (errCode t.err, t.rngHistory, t.rngAnswers.length, t.iv.toList))
      (exec .encrypt (answers 20 (at_ 0x20#32 16#32 0x40#32 0x20 []))) =
    some (6#4, [], 20, rep 16 0x00#8) := by decide +kernel

/-- V-CH-8: V-CH-2 decrypted under its IV, and V-CH-13's wrong IV on V-CH-4. -/
theorem test_decrypt :
    seen (fun t => (t.outlen, memRead t.dmem 0x60 3, memByte t.dmem 0x63))
      (exec .decrypt { keyed key128 (at_ 0x40#32 16#32 0x60#32 0x40 (hx 16 0xf327e7290b9b923d29d949db2c9f75cc)) with
        iv := ivOfBytes (hx 16 0x000102030405060708090a0b0c0d0e0f) }) =
      some (3#32, .bytes (hx 3 0x616263), none) ∧
    ended (exec .decrypt { keyed key128 (at_ 0x40#32 16#32 0x60#32 0x40 (hx 16 0x50fe67cc996d32b6da0937e99bafec60)) with
      iv := ivOfBytes (hx 16 0x000000001415161718191a1b1c1d1e1f) }) = some (2#4, 0#32) := by decide +kernel

/-- V-CH-10, V-CH-11, V-CH-12. -/
theorem test_decrypt_checks :
    ended (exec .decrypt (at_ 0#32 17#32 0x60#32 0 [])) = some (6#4, 0#32) ∧
    ended (exec .decrypt (keyed key128 (at_ 0#32 17#32 0x60#32 0 []))) = some (3#4, 0#32) ∧
    ended (exec .decrypt (keyed key128 (at_ 0#32 0#32 0x60#32 0 []))) = some (2#4, 0#32) := by decide +kernel

/-! ## RNG -/

/-- V-RNG-3. -/
theorem test_rngGet :
    seen (fun t => (t.rngout, t.outlen, t.rngHistory, t.rngAnswers)) (exec .rngGet { State.reset with rngAnswers := [0xa7#8] }) =
      some (0x000000a7#32, 0#32, [0xa7#8], []) := by decide +kernel

/-- V-RNG-5: FATAL, no draw. -/
theorem test_rngGet_fatal :
    seen (fun t => (statusWord t, t.rngout, t.rngHistory)) (exec .rngGet (State.afterReset Config.testPrograms false)) =
      some (0x00000402#32, 0#32, []) := by decide +kernel

/-! ## The bus, errors and reset -/

/-- V-E1, V-E2, V-E3: illegal words, as the first command after reset. -/
theorem test_illegal_words :
    ∀ w ∈ [0x00000004, 0x00000102, 0x00000000], seen statusWord (step (State.reset.withFetchWord 32 w)) = some 0x00000800#32 := by
  decide +kernel

/-- V-E4, V-E5: FATAL ranks before IllegalCommand. -/
theorem test_fatal_words :
    ∀ w ∈ [0x000000ff, 0x00000001],
      seen statusWord (step ((State.afterReset Config.testPrograms false).withFetchWord 32 w)) = some 0x00000402#32 := by
  decide +kernel

/-- A 32-bit, 16-bit or 8-bit access as the next turn. -/
def access (a : HostAccess) (s : State) : Result := step (turned [.host a] s)

/-- V-E6 to V-E12. -/
theorem test_bus_faults :
    faulted (access (.read 32 0x01C) State.reset) = some (.busFault 0x01C 32) ∧
    faulted (access (.read 32 0x030) State.reset) = some (.busFault 0x030 32) ∧
    faulted (access (.read 32 0x002) State.reset) = some (.busFault 0x002 32) ∧
    faulted (access (.read 8 0x004) State.reset) = some (.busFault 0x004 8) ∧
    faulted (access (.read 32 0x1002) State.reset) = some (.busFault 0x1002 32) ∧
    faulted (access (.read 32 0x1400) State.reset) = some (.busFault 0x1400 32) ∧
    faulted (access (.read 8 0x1005) State.reset) = some (.unwrittenRead 5) := by decide +kernel

/-- V-E13: a write in the BUSY window. -/
theorem test_host_hazard :
    faulted (access (.write 32 0x008 0#32) (issued 1#32 State.reset)) = some (.hostHazard 0x008) := by decide +kernel

/-- V-E14, V-E15, V-E16. -/
theorem test_register_writes :
    seen (fun t => t = State.reset) (access (.write 32 0x004 0xffffffff#32) State.reset) = some True ∧
    seen (fun t => t.iv.toList.take 5) (access (.write 32 0x020 0x11223344#32) State.reset) = some (hx 5 0x4433221100) ∧
    seen (fun t => memRead t.dmem 0x10 4) (access (.write 32 0x1010 0xa1b2c3d4#32) State.reset) =
      some (.bytes (hx 4 0xd4c3b2a1)) := by
  refine ⟨?_, by decide +kernel, by decide +kernel⟩
  simp [access, turned, step, hostAccess, underConfig, busOffset, hostWrite, inBusyWindow, busTarget, regAt, regWrite, seen,
    State.reset, State.afterReset, Config.testPrograms]

/-- Program P4: STATUS after a reset without entropy, and after one with it. -/
theorem test_reset_status :
    statusWord (State.afterReset Config.testPrograms false) = 0x00000402#32 ∧ statusWord State.reset = 0x00000000#32 := by
  decide

/-- The first command of program P1 from reset, `WR CMD, 1; WAIT`, when one poll comes before the sequencer's step. -/
theorem test_script :
    seen (fun t => (statusWord t, t.rdata, t.busyWindow, t.turns))
      (Sys2Proof.core.run 4 (turned (scriptExpand Config.testPrograms 1 .shaInit) State.reset)) =
    some (0x00010000#32, 0x00010000#32, false, []) := by decide +kernel

/-! ## Part 2: witnesses

Each theorem names the obligation whose hypotheses it meets. -/

/-- The host writes CMD as the next turn: to an idle core, to a busy one, to an idle one whose window is still open. -/
theorem witness_CmdWriteIssuesCommand :
    let s := turned [.host (.write 32 0 1#32)] State.reset
    let s' := turned [.host (.write 32 0 1#32)] (issued 1#32 State.reset)
    NextWrite s 32 0x000 1#32 [] ∧ s.cfg.chainMode = .cbc ∧ s.busy = false ∧ s.busyWindow = false ∧
    let s'' := turned [.host (.write 32 0 1#32)] { State.reset with busyWindow := true }
    NextWrite s' 32 0x000 1#32 [] ∧ s'.cfg.chainMode = .cbc ∧ s'.busy = true ∧
    NextWrite s'' 32 0x000 1#32 [] ∧ s''.cfg.chainMode = .cbc ∧ s''.busy = false ∧ s''.busyWindow = true := by decide

theorem witness_StepRunsDecodedCommand :
    let s := issued 0x30#32 State.reset
    let s' := turned [.sequencer] s
    s.busy = true ∧ decode s.pending = .command .rngGet ∧ s.turns = [] ∧
    s'.busy = true ∧ decode s'.pending = .command .rngGet ∧ s'.turns = .sequencer :: [] := by decide

theorem witness_IllegalWordIsRejected :
    let s := issued 0x31#32 State.reset
    s.runs ∧ s.busy = true ∧ decode s.pending = .illegal ∧ SequencerNext s [] ∧
    SequencerNext (turned [.sequencer, .host (.read 32 4)] s) [.host (.read 32 4)] := by decide

theorem witness_FatalDominatesEveryWord :
    let s := issued 0x31#32 (State.afterReset Config.testPrograms false)
    s.cfg.chainMode = .cbc ∧ s.fatal = true ∧ s.busy = true ∧ SequencerNext s [] ∧
    SequencerNext (turned [.sequencer, .host (.read 32 4)] s) [.host (.read 32 4)] := by decide

/-- Both outcomes occur: SHA_INIT completes, PAD of an unwritten byte faults. -/
theorem witness_IssuedCommandAlwaysCompletes :
    (let s := issued 0x01#32 State.reset
     s.cfg.chainMode = .cbc ∧ s.busy = true ∧ SequencerNext s [] ∧ seen (·.busy) (step s) = some false) ∧
    (let s := turned [.sequencer, .host (.read 32 4)] (issued 0x01#32 State.reset)
     s.cfg.chainMode = .cbc ∧ s.busy = true ∧ SequencerNext s [.host (.read 32 4)] ∧
     seen (·.busy) (step s) = some false) ∧
    (let s := issued 0x20#32 (at_ 0#32 1#32 0#32 0 [])
     s.cfg.chainMode = .cbc ∧ s.busy = true ∧ SequencerNext s [] ∧ faulted (step s) = some (.unwrittenRead 0)) := by
  decide +kernel

theorem witness_ScriptedCommandIssuesRunsAndWaits :
    let s := turned (scriptCommand Config.testPrograms 2 .shaInit) State.reset
    s.busy = false ∧ s.busyWindow = false ∧ s.turns = scriptCommand s.cfg 2 .shaInit ++ [] ∧
    ∃ t, exec .shaInit (issue (encode .shaInit) s) = .next t :=
  ⟨rfl, rfl, rfl, _, rfl⟩

/-- Each clause one byte beyond DMEM. -/
theorem witness_RangeOutsideDmemIsBoundsError :
    (let s := at_ 1024#32 1#32 993#32 0 []
     s.runs ∧ s.cfg.dmemSize + 1 = s.src.toNat + s.len.toNat ∧ s.cfg.dmemSize + 1 = s.dst.toNat + 32) ∧
    (let s := at_ 1009#32 0#32 1009#32 0 []
     s.runs ∧ s.cfg.dmemSize + 1 = s.src.toNat + 16 ∧ s.cfg.dmemSize + 1 = s.dst.toNat + 16 ∧
     s.cfg.dmemSize + 1 = s.dst.toNat + (s.len.toNat + 16 - s.len.toNat % 16)) ∧
    (let s := at_ 0#32 32#32 993#32 0 []
     s.runs ∧ s.cfg.dmemSize + 1 = s.dst.toNat + s.len.toNat) := by decide

/-- Each range ends at the end of DMEM. -/
theorem witness_FinalizedContextIsRejected :
    let s := at_ 1024#32 0#32 992#32 0 []
    s.runs ∧ s.sha.shatag = .finalized ∧ s.src.toNat + s.len.toNat = s.cfg.dmemSize ∧
    s.dst.toNat + 32 = s.cfg.dmemSize := by decide

theorem witness_MissingKeyIsRejected :
    (let s := at_ 1008#32 0#32 1008#32 0 []
     s.runs ∧ s.aes.keyvalid = false ∧ s.src.toNat + 16 = s.cfg.dmemSize ∧ s.dst.toNat + 16 = s.cfg.dmemSize ∧
     s.src.toNat + s.len.toNat ≤ s.cfg.dmemSize ∧
     s.dst.toNat + (s.len.toNat + 16 - s.len.toNat % 16) = s.cfg.dmemSize) ∧
    (let s := at_ 0#32 17#32 1007#32 0 []
     s.runs ∧ s.aes.keyvalid = false ∧ s.src.toNat + s.len.toNat ≤ s.cfg.dmemSize ∧
     s.dst.toNat + s.len.toNat = s.cfg.dmemSize) := by decide

theorem witness_IllegalLengthsAreRejected :
    let s := keyed key128 (at_ 1007#32 17#32 1007#32 0 [])
    s.runs ∧ s.src.toNat + s.len.toNat = s.cfg.dmemSize ∧
    (s.len.toNat ≠ 16 ∧ s.len.toNat ≠ 24 ∧ s.len.toNat ≠ 32) ∧
    s.dst.toNat + s.len.toNat = s.cfg.dmemSize ∧ s.aes.keyvalid = true ∧ s.len.toNat % 16 ≠ 0 := by decide +kernel

/-- Byte 1023, the last of the source and of DMEM, is the only unwritten one; every clause applies. -/
theorem witness_UnwrittenSourceFaults :
    let s := hashing [] (keyed key128 (at_ 1008#32 16#32 0#32 1008 (rep 15 0x00#8)))
    s.runs ∧ s.src.toNat ≤ 1023 ∧ memByte s.dmem 1023 = none ∧
    (∀ x, s.src.toNat ≤ x → x < 1023 → memByte s.dmem x ≠ none) ∧
    1023 < s.src.toNat + s.len.toNat ∧ s.src.toNat + s.len.toNat ≤ s.cfg.dmemSize ∧ s.sha.shatag = .ready ∧
    s.len.toNat = 16 ∧ s.dst.toNat + (s.len.toNat + 16 - s.len.toNat % 16) ≤ s.cfg.dmemSize ∧
    s.aes.keyvalid = true ∧ s.dst.toNat + s.len.toNat ≤ s.cfg.dmemSize ∧ s.len.toNat % 16 = 0 ∧
    1023 < s.src.toNat + 16 ∧ s.src.toNat + 16 ≤ s.cfg.dmemSize ∧ s.dst.toNat + 16 ≤ s.cfg.dmemSize := by
  refine ⟨by decide, by decide, by decide +kernel, fun x h1 h2 => ?_, ?_⟩
  · have h1 : 1008 ≤ x := h1
    interval_cases x <;> decide +kernel
  · refine ⟨by decide, by decide, by decide +kernel, by decide, by decide, by decide +kernel, by decide, by decide, by decide,
      by decide, by decide⟩

/-- One command for each code it can end with: `exec` answers a next state in each. -/
theorem witness_EachCommandRaisesOnlyItsErrors :
    ended (exec .shaInit State.reset) = some (0#4, 0#32) ∧
    ended (exec .shaInit (State.afterReset Config.testPrograms false)) = some (4#4, 0#32) ∧
    ended (exec .pad (at_ 1025#32 0#32 0#32 0 [])) = some (7#4, 0#32) ∧
    ended (exec .shaFinal State.reset) = some (5#4, 0#32) ∧
    ended (exec .encrypt State.reset) = some (6#4, 0#32) ∧
    ended (exec .aesKey State.reset) = some (1#4, 0#32) ∧
    ended (exec .decrypt (keyed key128 (at_ 0#32 1#32 0#32 0 []))) = some (3#4, 0#32) ∧
    ended (exec .unpad State.reset) = some (2#4, 0#32) := by decide +kernel

/-- Both outcomes occur; the faulting byte is the last of its source range. -/
theorem witness_CommandStopsOnlyOnUnwrittenSource :
    State.reset.cfg.chainMode = .cbc ∧ ended (exec .shaInit State.reset) = some (0#4, 0#32) ∧
    (let s := at_ 1008#32 16#32 0#32 1008 (rep 15 0x00#8)
     s.cfg.chainMode = .cbc ∧ faulted (exec .pad s) = some (.unwrittenRead 1023) ∧ memByte s.dmem 1023 = none ∧
     sourceRange .pad s = some (1008, 16)) := by decide +kernel

theorem witness_ShaInitOpensFreshContext : State.reset.runs := by decide

/-- One byte at the end of DMEM. -/
theorem witness_ShaAbsorbAbsorbsSourceBytes :
    let s := hashing [] (at_ 1023#32 1#32 0#32 1023 [0x61#8])
    s.runs ∧ s.sha.shatag = .ready ∧ s.src.toNat + s.len.toNat = s.cfg.dmemSize ∧
    BytesAt s.dmem s.src.toNat s.len.toNat [0x61#8] := by decide +kernel

/-- The buffer one short of full, and full with the next byte. -/
theorem witness_AbsorbByteBuffersOrCompresses :
    (shaAbsorbBytes (shaInitContext 0) (rep 62 0x61#8)).shabuflen.val = 62 ∧
    (shaAbsorbBytes (shaInitContext 0) (rep 63 0x61#8)).shabuflen.val = 63 := by decide +kernel

theorem witness_ShaFinalWritesDigest :
    let s := hashing [] (at_ 0#32 0#32 992#32 0 [])
    s.runs ∧ s.sha.shatag = .ready ∧ s.dst.toNat + 32 = s.cfg.dmemSize := by decide +kernel

theorem witness_FinalStepCompressesOneOrTwoBlocks :
    (shaAbsorbBytes (shaInitContext 0) (rep 55 0x61#8)).shabuflen.val = 55 ∧
    (shaAbsorbBytes (shaInitContext 0) (rep 56 0x61#8)).shabuflen.val = 56 := by decide +kernel

theorem witness_MessageScheduleRecurrence : 15 < 16 ∧ 16 ≤ 16 ∧ 16 < 64 ∧ 16 ≤ 63 ∧ 63 < 64 := by decide

theorem witness_AesKeyLoadsExpandedKey :
    let s := at_ 992#32 32#32 0#32 992 key256
    s.runs ∧ s.src.toNat + s.len.toNat = s.cfg.dmemSize ∧
    (s.len.toNat = 16 ∨ s.len.toNat = 24 ∨ s.len.toNat = 32) ∧
    BytesAt s.dmem s.src.toNat s.len.toNat key256 := by decide +kernel

/-- Of a 256-bit key: the last raw word, the first step (a multiple of Nk), an extra SubWord, the last word. -/
theorem witness_KeyExpansionRecurrence :
    key256.length = 32 ∧ 7 < key256.length / 4 ∧ 8 % (key256.length / 4) = 0 ∧
    12 % (key256.length / 4) ≠ 0 ∧ 12 % 8 = 4 ∧ 59 < 4 * (key256.length / 4 + 6 + 1) := by decide +kernel

theorem witness_AesEncWritesCiphertextBlock :
    let s := keyed key128 (at_ 1008#32 7#32 1008#32 1008 (rep 16 0x00#8))
    s.runs ∧ s.aes.keyvalid = true ∧ s.src.toNat + 16 = s.cfg.dmemSize ∧ s.dst.toNat + 16 = s.cfg.dmemSize ∧
    BytesAt s.dmem s.src.toNat 16 (rep 16 0x00#8) := by decide +kernel

theorem witness_AesDecWritesPlaintextBlock :
    let s := keyed key128 (at_ 1008#32 7#32 1000#32 1008 (rep 16 0x00#8))
    s.runs ∧ s.aes.keyvalid = true ∧ s.src.toNat + 16 = s.cfg.dmemSize ∧ s.dst.toNat + 16 ≤ s.cfg.dmemSize ∧
    BytesAt s.dmem s.src.toNat 16 (rep 16 0x00#8) := by decide +kernel

/-- The empty source at the end of DMEM, and a source of 16 bytes. -/
theorem witness_PadAppendsPkcs7Trailer :
    (let s := at_ 1024#32 0#32 1008#32 0 []
     s.runs ∧ s.cfg.dmemSize ≤ 0xF000 ∧ s.src.toNat + s.len.toNat = s.cfg.dmemSize ∧
     s.dst.toNat + (s.len.toNat + (16 - s.len.toNat % 16)) = s.cfg.dmemSize ∧
     BytesAt s.dmem s.src.toNat s.len.toNat []) ∧
    (let s := at_ 0#32 16#32 992#32 0 (rep 16 0x00#8)
     s.runs ∧ s.src.toNat + s.len.toNat ≤ s.cfg.dmemSize ∧
     s.dst.toNat + (s.len.toNat + (16 - s.len.toNat % 16)) = s.cfg.dmemSize ∧
     BytesAt s.dmem s.src.toNat s.len.toNat (rep 16 0x00#8)) := by decide +kernel

/-- A trailer of one byte and a trailer of sixteen are well padded. -/
theorem paddedForm_one : PaddedForm (rep 15 0x00#8 ++ [0x01#8]) (rep 15 0x00#8) :=
  (pkcs7Unpad_eq_some_iff _ _).1 (by decide +kernel)

theorem paddedForm_sixteen : PaddedForm (rep 16 0x10#8) [] :=
  (pkcs7Unpad_eq_some_iff _ _).1 (by decide +kernel)

theorem witness_UnpadStripsTrailer :
    (let s := at_ 1008#32 16#32 1008#32 1008 (rep 15 0x00#8 ++ [0x01#8])
     s.runs ∧ s.src.toNat + s.len.toNat = s.cfg.dmemSize ∧ s.dst.toNat + s.len.toNat = s.cfg.dmemSize ∧
     BytesAt s.dmem s.src.toNat s.len.toNat (rep 15 0x00#8 ++ [0x01#8])) ∧
    PaddedForm (rep 15 0x00#8 ++ [0x01#8]) (rep 15 0x00#8) ∧ PaddedForm (rep 16 0x10#8) [] :=
  ⟨by decide +kernel, paddedForm_one, paddedForm_sixteen⟩

/-- The empty buffer for both commands, and a trailer byte 0 for UNPAD. -/
theorem witness_MalformedPaddingIsRejected :
    (let s := keyed key128 (at_ 1024#32 0#32 1024#32 0 [])
     s.runs ∧ s.src.toNat + s.len.toNat = s.cfg.dmemSize ∧ s.dst.toNat + s.len.toNat = s.cfg.dmemSize ∧
     BytesAt s.dmem s.src.toNat s.len.toNat [] ∧ s.aes.keyvalid = true ∧ s.len.toNat % 16 = 0 ∧
     (∀ r, ¬ PaddedForm [] r) ∧ ∀ r, ¬ PaddedForm (chainDec s.aes.rk.toList s.aes.nr s.iv.toList []) r) ∧
    (∀ r, ¬ PaddedForm (rep 16 0x00#8) r) := by
  have none : ∀ b, pkcs7Unpad b = none → ∀ r, ¬ PaddedForm b r := fun b h r hp => by
    simp [(pkcs7Unpad_eq_some_iff b r).2 hp] at h
  exact ⟨⟨by decide, by decide, by decide, by decide +kernel, by decide +kernel, by decide, none _ rfl, none _ rfl⟩,
    none _ (by decide +kernel)⟩

/-- With no injected answer, with one fewer than ENCRYPT draws, and with more. -/
theorem witness_EncryptDrawsIvAndWritesChain :
    let s := keyed key128 (at_ 1024#32 0#32 1008#32 0 [])
    let s' := answers 15 s
    s.runs ∧ s.cfg.dmemSize ≤ 0xF000 ∧ s.aes.keyvalid = true ∧ s.src.toNat + s.len.toNat = s.cfg.dmemSize ∧
    s.dst.toNat + (s.len.toNat + (16 - s.len.toNat % 16)) = s.cfg.dmemSize ∧
    BytesAt s.dmem s.src.toNat s.len.toNat [] ∧
    s.rngAnswers.length = 0 ∧ s'.rngAnswers.length = 15 ∧ (answers 20 s).rngAnswers.length = 20 ∧
    s'.runs ∧ s'.aes.keyvalid = true ∧ BytesAt s'.dmem s'.src.toNat s'.len.toNat [] := by decide +kernel

/-- V-CH-8. -/
theorem witness_DecryptWritesUnpaddedChain :
    let c := hx 16 0xf327e7290b9b923d29d949db2c9f75cc
    let s := { keyed key128 (at_ 1008#32 16#32 1008#32 1008 c) with iv := ivOfBytes (hx 16 0x000102030405060708090a0b0c0d0e0f) }
    s.runs ∧ s.aes.keyvalid = true ∧ s.len.toNat % 16 = 0 ∧ s.src.toNat + s.len.toNat = s.cfg.dmemSize ∧
    s.dst.toNat + s.len.toNat = s.cfg.dmemSize ∧ BytesAt s.dmem s.src.toNat s.len.toNat c ∧
    PaddedForm (chainDec s.aes.rk.toList s.aes.nr s.iv.toList c) (hx 3 0x616263) :=
  ⟨by decide, by decide +kernel, by decide, by decide, by decide, by decide +kernel,
   (pkcs7Unpad_eq_some_iff _ _).1 (by decide +kernel)⟩

/-- Two blocks: the first under the IV, the second under the block before it. -/
theorem witness_ChainBlockRules : (rep 16 0x00#8).length = 16 ∧ (rep 32 0x00#8).length = 16 * 2 ∧ 0 < 2 ∧ 1 < 2 := by decide

/-- With an injected answer and without one. -/
theorem witness_RngGetReturnsOneDraw :
    (State.reset.runs ∧ State.reset.rngAnswers = []) ∧
    (let s := answers 1 State.reset
     s.runs ∧ s.rngAnswers = 0x00#8 :: []) := by decide

/-- Every command answers a next state somewhere (used for every statement about `exec i s = next t`). -/
theorem witness_OnlyNamedUnitsChange :
    let k := hashing [] (keyed key128 (at_ 0#32 16#32 0x40#32 0 (rep 16 0x00#8)))
    [Instr.shaInit, .shaAbsorb, .shaFinal, .aesKey, .aesEnc, .aesDec, .pad, .unpad, .encrypt, .decrypt, .rngGet].all
      (fun i => (seen (·.busy) (exec i k)).isSome) = true := by decide +kernel

/-- A command that stores, one that does not, and a rejected one, each answering a next state. -/
theorem witness_DmemKeptOutsideReportedOutput :
    let s := at_ 0#32 3#32 0x40#32 0 (hx 3 0x616263)
    s.cfg.dmemSize ≤ 0xF000 ∧ ended (exec .pad s) = some (0#4, 16#32) ∧ ended (exec .rngGet s) = some (0#4, 0#32) ∧
    ended (exec .aesKey s) = some (1#4, 0#32) := by decide +kernel

theorem witness_RejectedCommandChangesNothing : ∃ t, exec .encrypt State.reset = .next t ∧ t.err ≠ .ok :=
  ⟨_, rfl, by decide⟩

/-- The tag changes both ways. -/
theorem witness_ContextLifecycle :
    (∃ t, exec .shaInit State.reset = .next t ∧ t.sha.shatag ≠ State.reset.sha.shatag) ∧
    (∃ t, exec .shaFinal (hashing [] State.reset) = .next t ∧ t.sha.shatag ≠ (hashing [] State.reset).sha.shatag) :=
  ⟨⟨_, rfl, by decide⟩, ⟨_, rfl, by decide⟩⟩

/-- Two oracles; PAD completes under both, and faults under both on an unwritten byte. -/
theorem witness_CommandsIgnoreTheOracle :
    (let s := at_ 0#32 0#32 0#32 0 []
     SameButOracle s (answers 4 s) ∧ ∃ t, exec .pad s = .next t) ∧
    (let s := at_ 0#32 1#32 0#32 0 []
     SameButOracle s (answers 4 s) ∧ faulted (exec .pad s) = some (.unwrittenRead 0)) :=
  ⟨⟨rfl, _, rfl⟩, rfl, by decide +kernel⟩

/-- NK = 4, 6, 8 with a key, and no key. -/
theorem witness_StatusFieldsReadTheirState :
    State.reset.aes.keyvalid = false ∧
    (let n := fun k => (keyed (rep k 0x00#8) State.reset).aes
     (n 16).keyvalid = true ∧ (n 16).nk = 4 ∧ (n 24).nk = 6 ∧ (n 32).nk = 8) := by decide +kernel

/-- Inside the window with BUSY = 1, and with BUSY = 0 before a STATUS read; an 8-bit STATUS read and an OUTLEN read. -/
theorem witness_AccessInBusyWindowIsHazard :
    let a := issued 1#32 State.reset
    let b := { State.reset with busyWindow := true }
    a.cfg.chainMode = .cbc ∧ a.busy = true ∧ b.busy = false ∧ b.busyWindow = true ∧
    NextWrite (turned [.host (.write 32 0 1#32)] a) 32 0x000 1#32 [] ∧
    NextRead (turned [.host (.read 8 4)] a) 8 0x004 [] ∧ ¬ (8 = 32 ∧ 0x004 = 0x004) ∧
    NextRead (turned [.host (.read 32 0x14)] b) 32 0x014 [] ∧ ¬ (32 = 32 ∧ 0x014 = 0x004) := by decide

theorem witness_StatusReadClosesBusyWindow :
    let s := turned [.host (.read 32 4)] { State.reset with busyWindow := true }
    s.cfg.chainMode = .cbc ∧ NextRead s 32 0x004 [] := by decide

/-- A read of `width` bits at `off` meets the hypotheses of `IllegalAccessIsBusFault`. -/
abbrev IllegalRead (width off : Nat) : Prop :=
  NextRead (turned [.host (.read width off)] State.reset) width off [] ∧
  State.reset.cfg.chainMode = .cbc ∧ State.reset.busy = false ∧ State.reset.busyWindow = false ∧
  ((off < 0x1000 ∧ (width ≠ 32 ∨ off % 4 ≠ 0 ∨ off = 0x01C ∨ 0x030 ≤ off)) ∨
   (0x1000 ≤ off ∧ ((width ≠ 8 ∧ width ≠ 16 ∧ width ≠ 32) ∨ off % (width / 8) ≠ 0 ∨
     0x1000 + State.reset.cfg.dmemSize < off + width / 8)))

/-- A narrow register access, a misaligned one, the reserved places of register space, the same of DMEM, and the first
offset beyond DMEM. -/
theorem witness_IllegalAccessIsBusFault :
    IllegalRead 8 0x004 ∧ IllegalRead 32 0x02E ∧ IllegalRead 32 0x01C ∧ IllegalRead 32 0x030 ∧ IllegalRead 32 0xFFC ∧
    IllegalRead 64 0x1000 ∧ IllegalRead 16 0x1001 ∧ IllegalRead 32 0x1400 ∧ IllegalRead 8 0xFFFF := by
  refine ⟨?_, ?_, ?_, ?_, ?_, ?_, ?_, ?_, ?_⟩ <;> exact ⟨by decide, by decide⟩

/-- SRC, LEN, DST, the read-only registers and the two ends of IV. -/
theorem witness_RegisterWritesStoreOrAreIgnored :
    let next := fun off =>
      let s := turned [.host (.write 32 off 7#32)] State.reset
      s.cfg.chainMode = .cbc ∧ s.busy = false ∧ s.busyWindow = false ∧ NextWrite s 32 off 7#32 []
    next 0x008 ∧ next 0x00C ∧ next 0x010 ∧ next 0x004 ∧ next 0x014 ∧ next 0x018 ∧ next (0x020 + 4 * 0) ∧
    next (0x020 + 4 * 3) := by decide

theorem witness_RegisterReadsReturnTheirValue :
    let next := fun off =>
      let s := turned [.host (.read 32 off)] State.reset
      s.cfg.chainMode = .cbc ∧ s.busy = false ∧ s.busyWindow = false ∧ NextRead s 32 off []
    next 0x000 ∧ next 0x008 ∧ next 0x00C ∧ next 0x010 ∧ next 0x014 ∧ next 0x018 ∧ next (0x020 + 4 * 0) ∧
    next (0x020 + 4 * 3) := by decide

/-- Each width at the last place where it fits. -/
theorem witness_DmemWriteIsLittleEndian :
    let next := fun n a =>
      let s := turned [.host (.write (8 * n) (0x1000 + a) 7#32)] State.reset
      s.cfg.chainMode = .cbc ∧ s.busy = false ∧ s.busyWindow = false ∧ (n = 1 ∨ n = 2 ∨ n = 4) ∧ a % n = 0 ∧
      a + n = s.cfg.dmemSize ∧ NextWrite s (8 * n) (0x1000 + a) 7#32 []
    next 1 1023 ∧ next 2 1022 ∧ next 4 1020 := by decide

/-- Written bytes, and a word whose last byte is unwritten. -/
theorem witness_DmemReadIsLittleEndian :
    let s := turned [.host (.read 32 0x1000)] (at_ 0#32 0#32 0#32 0 (hx 4 0x01020304))
    let s' := turned [.host (.read 32 0x1000)] (at_ 0#32 0#32 0#32 0 (hx 3 0x010203))
    s.cfg.chainMode = .cbc ∧ s.busy = false ∧ s.busyWindow = false ∧ 0 % 4 = 0 ∧ 0 + 4 ≤ s.cfg.dmemSize ∧
    NextRead s (8 * 4) (0x1000 + 0) [] ∧ BytesAt s.dmem 0 4 (hx 4 0x01020304) ∧
    NextRead s' (8 * 4) (0x1000 + 0) [] ∧ memByte s'.dmem (0 + 3) = none := by decide +kernel

/-- Two keys of one length, and two hash contexts. -/
theorem witness_HostCannotReadSecrets :
    let s := turned [.host (.read 32 4)] (keyed key128 (hashing [] State.reset))
    let s' := turned [.host (.read 32 4)] (keyed (rep 16 0x00#8) (hashing (hx 1 0x61) State.reset))
    s.turns = .host (.read 32 4) :: [] ∧ SameButSecrets s s' := ⟨rfl, rfl⟩

theorem witness_PlatformResetRestoresResetState :
    let s := turned [.reset false] (issued 1#32 State.reset)
    s.cfg.chainMode = .cbc ∧ s.turns = .reset false :: [] := by decide

/-- The smallest and the largest legal parameters, and an illegal mode. -/
theorem witness_ConfigurationStartsOrIsRefused :
    (∃ c : Config, c.coreBase % 0x10000 = 0 ∧ c.dmemSize % 16 = 0 ∧ 64 ≤ c.dmemSize ∧ c.dmemSize = 0xF000 ∧ c.chainMode = .cbc) ∧
    (∃ c : Config, c.coreBase % 0x10000 = 0 ∧ c.dmemSize % 16 = 0 ∧ 64 = c.dmemSize ∧ c.dmemSize ≤ 0xF000 ∧ c.chainMode = .cbc) ∧
    (∃ s : State, s.cfg.chainMode = .other "ECB") :=
  ⟨⟨{ Config.testPrograms with dmemSize := 0xF000 }, by decide⟩, ⟨{ Config.testPrograms with dmemSize := 64 }, by decide⟩,
   ⟨{ State.reset with cfg := { Config.testPrograms with chainMode := .other "ECB" } }, rfl⟩⟩

/-- A state that a run reaches, a command issued after reset, meets the invariant, and its step answers a next state. -/
theorem witness_EveryStepKeepsTheInvariant :
    State.Inv (issued 0x01#32 State.reset) ∧ ∃ t, step (issued 0x01#32 State.reset) = .next t := by
  refine ⟨⟨rfl, fun _ _ => rfl, ?_, ?_, by decide, by decide, fun _ => rfl, fun _ => rfl, ?_⟩, _, rfl⟩ <;>
    intro h <;> exact absurd h (by decide)

theorem witness_OnlyResetChangesFatal :
    (∃ t, step State.reset = .next t) ∧ ∃ t, step (turned [.reset false] State.reset) = .next t :=
  ⟨⟨_, rfl⟩, ⟨_, rfl⟩⟩

theorem witness_InverseTransformsUndoTransforms : 3 < 4 ∧ 0 < 4 := by decide

theorem witness_AesRoundTrip : key128.length = 16 := by decide +kernel

theorem witness_SboxIsAffineOfInverse : (0x01#8 : Byte) ≠ 0x00#8 := by decide

/-- "a" and "bc" apart at the two ends of DMEM, "abc" at its middle. -/
theorem witness_DigestIndependentOfChunking :
    let s := { at_ 0#32 0#32 992#32 0 [] with
      dmem := memWrite (memWrite (memWrite [] 0 (hx 1 0x61)) 512 (hx 3 0x616263)) 1022 (hx 2 0x6263) }
    s.runs ∧ 0 + 1 ≤ s.cfg.dmemSize ∧ BytesAt s.dmem 0 1 (hx 1 0x61) ∧
    1022 + 2 = s.cfg.dmemSize ∧ BytesAt s.dmem 1022 2 (hx 2 0x6263) ∧
    512 + 3 ≤ s.cfg.dmemSize ∧ BytesAt s.dmem 512 3 (hx 1 0x61 ++ hx 2 0x6263) ∧ s.dst.toNat + 32 = s.cfg.dmemSize := by
  decide +kernel

/-- A source of 3 bytes, both destinations at the end of DMEM. -/
theorem witness_DecryptRestoresEncrypted :
    let s := keyed key128 (at_ 0#32 3#32 1008#32 0 (hx 3 0x616263))
    s.runs ∧ s.cfg.dmemSize ≤ 0xF000 ∧ s.aes.keyvalid = true ∧ s.src.toNat + s.len.toNat ≤ s.cfg.dmemSize ∧
    s.dst.toNat + (s.len.toNat + 16 - s.len.toNat % 16) = s.cfg.dmemSize ∧
    (1008#32).toNat + (s.len.toNat + 16 - s.len.toNat % 16) = s.cfg.dmemSize ∧
    BytesAt s.dmem s.src.toNat s.len.toNat (hx 3 0x616263) := by decide +kernel

theorem witness_UnpadRestoresPadded :
    let s := at_ 0#32 3#32 1008#32 0 (hx 3 0x616263)
    s.runs ∧ s.cfg.dmemSize ≤ 0xF000 ∧ s.src.toNat + s.len.toNat ≤ s.cfg.dmemSize ∧
    s.dst.toNat + (s.len.toNat + 16 - s.len.toNat % 16) = s.cfg.dmemSize ∧
    (0#32).toNat + (s.len.toNat + 16 - s.len.toNat % 16) ≤ s.cfg.dmemSize ∧
    BytesAt s.dmem s.src.toNat s.len.toNat (hx 3 0x616263) := by decide +kernel

end Sys2Proof.Tests
end

section
/-! The configuration (00_scope.md R7): the legal ones start; under a `CHAIN_MODE` other than CBC nothing runs. -/

namespace Sys2Proof.Machine

/-- Legality in the words of R7. -/
theorem config_legal_iff (c : Config) :
    c.legal = true ↔
      c.coreBase % 0x10000 = 0 ∧ (c.dmemSize % 16 = 0 ∧ 64 ≤ c.dmemSize ∧ c.dmemSize ≤ 0xF000) ∧ c.chainMode = .cbc := by
  simp [Config.legal, Config.baseAligned, Config.sizeLegal, Config.modeAdmitted, and_assoc]

/-- A legal configuration starts in its reset state. -/
theorem start_legal {c : Config} (h : c.legal = true) (present : Bool) :
    State.start c present = .next (State.afterReset c present) := by
  obtain ⟨-, -, hc⟩ := (config_legal_iff c).1 h
  simp [State.start, hc, h]

/-- Another mode is refused at the start, whatever the other parameters are. -/
theorem start_refused {c : Config} {name : String} (h : c.chainMode = .other name) (present : Bool) :
    State.start c present = .fault (.configRefused (.other name)) := by
  simp [State.start, h]

section Refused

variable {s : State} {name : String}

/-- Under another mode the configuration refuses everything; `underConfig_cbc` is the other case. -/
theorem underConfig_refused (h : s.cfg.chainMode = .other name) (r : Result) :
    underConfig s r = .fault (.configRefused (.other name)) := by
  simp [underConfig, h]

/-- Every command begins with the configuration's check, so each of the eleven is refused. -/
theorem exec_refused (h : s.cfg.chainMode = .other name) (i : Instr) :
    exec i s = .fault (.configRefused (.other name)) := by
  cases i <;> exact underConfig_refused h _

/-- The sequencer's turn is refused on a command, on an illegal word and when the core is idle. -/
theorem sequencerTurn_refused (h : s.cfg.chainMode = .other name) :
    sequencerTurn s = .fault (.configRefused (.other name)) := by
  unfold sequencerTurn executePending
  split
  · split
    · exact exec_refused h _
    · exact underConfig_refused h _
  · exact underConfig_refused h _

/-- Every turn is refused: the sequencer's in both of its forms, the host's and the platform's. -/
theorem step_refused (h : s.cfg.chainMode = .other name) : step s = .fault (.configRefused (.other name)) := by
  cases hs : s.turns with
  | nil => exact (step_idle hs).trans (sequencerTurn_refused h)
  | cons turn ts =>
    cases turn with
    | sequencer => exact (step_sequencer hs).trans (sequencerTurn_refused h)
    | host a => exact (step_host hs).trans (underConfig_refused h _)
    | reset present => exact (step_reset hs).trans (underConfig_refused h _)

end Refused

/-- Settles O50: the start by R7's legality, the refusals by the configuration's check that opens every command and turn. -/
theorem configurationStartsOrIsRefused : Obligations.ConfigurationStartsOrIsRefused := by
  unfold Obligations.ConfigurationStartsOrIsRefused
  intro s cfg present i name
  refine ⟨fun hbase hmul hmin hmax hmode => ?_, fun hmode => start_refused hmode present,
    fun hmode => ⟨step_refused hmode, exec_refused hmode i⟩⟩
  exact start_legal ((config_legal_iff cfg).2 ⟨hbase, ⟨hmul, hmin, hmax⟩, hmode⟩) present

end Sys2Proof.Machine
end

section
/-! The invariant of the machine's states (10_state.md R29 to R45): each named update keeps it, so every command, every
turn and every step does. -/

namespace Sys2Proof.Machine

/-! ### The updates -/

section Updates

variable {s : State}

theorem State.Inv.setTurns (h : s.Inv) (ts : List Turn) : { s with turns := ts }.Inv := { h with }

theorem State.Inv.setRdata (h : s.Inv) (v : Word) : { s with rdata := v }.Inv := { h with }

theorem State.Inv.setIv (h : s.Inv) (iv : Vector Byte 16) : { s with iv := iv }.Inv := { h with }

/-- Bytes written inside DMEM leave its canonical form and the emptiness beyond its end. -/
theorem State.Inv.writeDmem (h : s.Inv) {a : Nat} {bs : List Byte} (fits : a + bs.length ≤ s.cfg.dmemSize) :
    { s with dmem := memWrite s.dmem a bs }.Inv :=
  { h with
    canonical := memWrite_wf a bs h.canonical
    inside := fun x hx => (memByte_memWrite_outside (.inr (fits.trans hx))).trans (h.inside x hx) }

/-! The units that a FATAL core leaves idle change only while FATAL is clear. -/

theorem State.Inv.setSha (h : s.Inv) (hf : s.fatal = false) {c : HashContext}
    (hc : c.shatag = .ready → c.shatotlen.toNat % 64 = c.shabuflen.val) : { s with sha := c }.Inv :=
  { h with counted := hc, fatalIdle := by simp [hf] }

theorem State.Inv.setAes (h : s.Inv) (hf : s.fatal = false) {k : AesKey} (hk : k.sizesLegal) : { s with aes := k }.Inv :=
  { h with keySizes := fun _ => hk, fatalIdle := by simp [hf] }

theorem State.Inv.setRngout (h : s.Inv) (hf : s.fatal = false) (b : Byte) : { s with rngout := b.setWidth 32 }.Inv :=
  { h with
    rngByte := by simpa using Nat.mod_lt_of_lt b.isLt
    fatalIdle := by simp [hf] }

theorem State.Inv.rngAfter (h : s.Inv) (hf : s.fatal = false) (n : Nat) : (rngAfter n s).Inv where
  canonical := by simpa using h.canonical
  inside := by simpa using h.inside
  counted := by simpa using h.counted
  keySizes := by simpa using h.keySizes
  rngByte := by simpa using h.rngByte
  outFits := by simpa using h.outFits
  window := by simpa using h.window
  latch := by simpa using h.latch
  fatalIdle := by simp [hf]

/-! ### The two ends of a command, the issue and the reset -/

/-- After a completion BUSY = 0, so nothing is asked of the window and of PENDING. -/
theorem State.Inv.commit (h : s.Inv) (hf : s.fatal = false) {n : Nat} (hn : n ≤ s.cfg.dmemSize) : (commit n s).Inv :=
  { h with
    outFits := (Nat.mod_le n _).trans hn
    window := by simp
    latch := by simp
    fatalIdle := by simp [hf] }

theorem State.Inv.commitAtDst (h : s.Inv) (hf : s.fatal = false) {bs : List Byte}
    (fits : s.dst.toNat + bs.length ≤ s.cfg.dmemSize) : (commitAtDst bs s).Inv :=
  (h.writeDmem fits).commit hf ((Nat.le_add_left _ _).trans fits)

/-- A FATAL core rejects with the code it already reports. -/
theorem State.Inv.reject (h : s.Inv) {e : ErrCode} (he : s.fatal = true → e = .entropySourceUnavailable) :
    (reject e s).Inv :=
  { h with
    outFits := Nat.zero_le _
    window := by simp
    latch := by simp
    fatalIdle := fun hf => by
      obtain ⟨-, -, rest⟩ := h.fatalIdle hf
      exact ⟨he hf, rfl, rest⟩ }

theorem State.Inv.commitUnpadded (h : s.Inv) (hf : s.fatal = false) {b : List Byte}
    (fits : s.dst.toNat + b.length ≤ s.cfg.dmemSize) : (commitUnpadded b s).Inv := by
  rcases commitUnpadded_cases b s with ⟨-, heq⟩ | ⟨r, hr, heq⟩
  · exact heq ▸ h.reject (by simp [hf])
  · have := pkcs7Unpad_length_le hr
    exact heq ▸ h.commitAtDst hf (by omega)

theorem State.Inv.issue (h : s.Inv) (v : Word) : (issue v s).Inv :=
  { h with window := fun _ => rfl, latch := fun _ => rfl }

theorem afterReset_inv (cfg : Config) (present : Bool) : (State.afterReset cfg present).Inv where
  canonical := afterReset_dmem_wf cfg present
  inside := fun _ _ => rfl
  counted := nofun
  keySizes := nofun
  rngByte := by simp [State.afterReset]
  outFits := Nat.zero_le _
  window := nofun
  latch := nofun
  fatalIdle := fun hf => by simp_all [State.afterReset]

theorem platformReset_inv (present : Bool) (s : State) : (platformReset present s).Inv :=
  { afterReset_inv s.cfg present with }

end Updates

/-! ### The commands -/

/-- A key length that AES_KEY admits gives a legal NK with NR = NK + 6 (42_aes.md R198, R220). -/
theorem loadKey_sizesLegal {m : List Byte} (h : keyLengthLegal m.length = true) (n : Nat) : (loadKey n m).sizesLegal := by
  obtain (hm | hm) | hm : (m.length = 16 ∨ m.length = 24) ∨ m.length = 32 := by simpa [keyLengthLegal] using h
  all_goals simp [AesKey.sizesLegal, loadKey, keyNr, keyNk, hm]

/-- A command that passes its checks found a legal length. -/
theorem lengthError_of_preError {i : Instr} {s : State} (h : preError i s = none) : lengthError i s = none := by
  obtain ⟨-, -, -, h⟩ := by simpa only [preError, Option.or_eq_none_iff] using h
  exact h

/-- A command that has passed its checks commits a state that satisfies the invariant: its output lies inside DMEM, and
the context or the key that it leaves is in order. -/
theorem State.Inv.committed {i : Instr} {s : State} {m : List Byte} (h : s.Inv) (hp : preError i s = none)
    (hm : m.length = sourceLength i s) : (committed i s m).Inv := by
  obtain ⟨hf, -, dest⟩ := preError_none hp
  cases i with
  | shaInit => exact (h.setSha hf (c := shaInitContext _) fun _ => rfl).commit hf (Nat.zero_le _)
  | shaAbsorb =>
    have counted (hr : (shaAbsorbBytes s.sha m).shatag = .ready) :=
      shaAbsorbBytes_counted m (h.counted (by simpa using hr))
    exact (h.setSha hf counted).commit hf (Nat.zero_le _)
  | shaFinal => exact (h.setSha hf (c := shaFinalContext _ _) nofun).commitAtDst hf (of_decide_eq_true dest)
  | aesKey =>
    have legal : keyLengthLegal m.length = true := by
      simpa [lengthError, hm, sourceLength, sourceRange] using lengthError_of_preError hp
    exact (h.setAes hf (loadKey_sizesLegal legal _)).commit hf (Nat.zero_le _)
  | aesEnc => exact h.commitAtDst hf (of_decide_eq_true dest)
  | aesDec => exact h.commitAtDst hf (of_decide_eq_true dest)
  | pad =>
    refine h.commitAtDst hf ?_
    rw [pkcs7Pad_length, hm]
    exact of_decide_eq_true dest
  | unpad =>
    refine h.commitUnpadded hf ?_
    rw [hm]
    exact of_decide_eq_true dest
  | encrypt =>
    refine ((h.rngAfter hf 16).setIv _).commitAtDst (by simpa using hf) ?_
    simp only [rngAfter_dst, rngAfter_cfg]
    rw [chainEnc_length, hm]
    exact of_decide_eq_true dest
  | decrypt =>
    have short := chainDec_length_le (keyWords s) s.aes.nr (ivBytes s) m
    rw [hm] at short
    exact h.commitUnpadded hf ((Nat.add_le_add_left short _).trans (of_decide_eq_true dest))
  | rngGet => exact ((h.rngAfter hf 1).setRngout (by simpa using hf) _).commit (by simpa using hf) (Nat.zero_le _)

theorem exec_keeps_inv {i : Instr} {s t : State} (h : s.Inv) (ht : exec i s = .next t) : t.Inv := by
  obtain ⟨-, ⟨e, he, rfl⟩ | ⟨hp, m, hm, rfl⟩⟩ := exec_next ht
  · refine h.reject fun hf => ?_
    rw [preError_fatal i hf] at he
    exact (Option.some.inj he).symm
  · exact h.committed hp (memRead_length hm)

/-! ### The turns -/

theorem sequencerTurn_keeps_inv {s t : State} (h : s.Inv) (ht : sequencerTurn s = .next t) : t.Inv := by
  obtain ⟨-, ⟨-, i, -, hx⟩ | ⟨-, -, rfl⟩ | ⟨-, rfl⟩⟩ := sequencerTurn_next ht
  · exact exec_keeps_inv h hx
  · exact h.reject fun hf => by simp [fatalError_set hf]
  · exact h

/-- Only a STATUS read touches the window, and it leaves it open while BUSY = 1. -/
theorem regReadDone_keeps_inv {s : State} (h : s.Inv) (r : HostReg) : (regReadDone r s).Inv := by
  cases r with
  | status => exact { h with window := id }
  | _ => exact h.setRdata _

/-- Only the issue touches BUSY, CMD and PENDING, and it gives the last two one value. -/
theorem regWrite_keeps_inv {s : State} (h : s.Inv) (v : Word) (r : HostReg) : (regWrite v s r).Inv := by
  cases r with
  | cmd => exact h.issue v
  | status | outlen | rngout => exact h
  | src | len | dst => exact { h with }
  | iv k => exact h.setIv _

theorem hostAccess_keeps_inv {a : HostAccess} {s t : State} (h : s.Inv) (ht : hostAccess a s = .next t) : t.Inv := by
  obtain ⟨-, rfl | ⟨r, rfl⟩ | ⟨v, rfl⟩ | ⟨-, ⟨r, v, rfl⟩ | ⟨c, bs, fits, rfl⟩⟩⟩ := hostAccess_next ht
  · exact h
  · exact regReadDone_keeps_inv h r
  · exact h.setRdata v
  · exact regWrite_keeps_inv h v r
  · exact h.writeDmem fits

/-- Settles O52, by the turn that the step takes. -/
theorem everyStepKeepsTheInvariant : Obligations.EveryStepKeepsTheInvariant := by
  unfold Obligations.EveryStepKeepsTheInvariant
  intro s t h hst
  obtain ⟨-, hq⟩ | ⟨ts, -, hq⟩ | ⟨a, ts, -, ha⟩ | ⟨p, ts, -, rfl⟩ := step_cases hst
  · exact sequencerTurn_keeps_inv h hq
  · exact sequencerTurn_keeps_inv (h.setTurns ts) hq
  · exact hostAccess_keeps_inv (h.setTurns ts) ha
  · exact platformReset_inv p _

end Sys2Proof.Machine
end

section
/-! What a command and a step leave alone of the state (10_state.md R34, R35, R39): SHATAG, the parameters and FATAL. -/

namespace Sys2Proof.Machine

theorem committed_cfg (i : Instr) (s : State) (m : List Byte) : (committed i s m).cfg = s.cfg := by
  cases i <;> simp [committed]

theorem committed_fatal (i : Instr) (s : State) (m : List Byte) : (committed i s m).fatal = s.fatal := by
  cases i <;> simp [committed]

/-- A command keeps the parameters and FATAL, rejected or committed. -/
theorem exec_keeps_cfg_fatal {i : Instr} {s t : State} (h : exec i s = .next t) : t.cfg = s.cfg ∧ t.fatal = s.fatal := by
  obtain ⟨-, ⟨e, -, rfl⟩ | ⟨-, m, -, rfl⟩⟩ := exec_next h
  · exact ⟨rfl, rfl⟩
  · exact ⟨committed_cfg i s m, committed_fatal i s m⟩

theorem sequencerTurn_keeps_cfg_fatal {s t : State} (h : sequencerTurn s = .next t) :
    t.cfg = s.cfg ∧ t.fatal = s.fatal := by
  obtain ⟨-, ⟨-, i, -, hx⟩ | ⟨-, -, rfl⟩ | ⟨-, rfl⟩⟩ := sequencerTurn_next h
  · exact exec_keeps_cfg_fatal hx
  · exact ⟨rfl, rfl⟩
  · exact ⟨rfl, rfl⟩

theorem hostAccess_keeps_cfg_fatal {a : HostAccess} {s t : State} (h : hostAccess a s = .next t) :
    t.cfg = s.cfg ∧ t.fatal = s.fatal := by
  obtain ⟨-, rfl | ⟨r, rfl⟩ | ⟨v, rfl⟩ | ⟨-, ⟨r, v, rfl⟩ | ⟨c, bs, -, rfl⟩⟩⟩ := hostAccess_next h
  · exact ⟨rfl, rfl⟩
  · exact ⟨regReadDone_cfg r s, regReadDone_fatal r s⟩
  · exact ⟨rfl, rfl⟩
  · exact ⟨regWrite_cfg v s r, regWrite_fatal v s r⟩
  · exact ⟨rfl, rfl⟩

/-- Settles O53, by the turn that the step takes. -/
theorem onlyResetChangesFatal : Obligations.OnlyResetChangesFatal := by
  unfold Obligations.OnlyResetChangesFatal
  intro s t hst
  obtain ⟨-, hq⟩ | ⟨ts, -, hq⟩ | ⟨a, ts, -, ha⟩ | ⟨p, ts, hturns, rfl⟩ := step_cases hst
  · exact (sequencerTurn_keeps_cfg_fatal hq).imp_right .inr
  · exact (sequencerTurn_keeps_cfg_fatal hq).imp_right .inr
  · exact (hostAccess_keeps_cfg_fatal ha).imp_right .inr
  · exact ⟨rfl, .inl ⟨p, ts, hturns⟩⟩

/-- Beside SHA_INIT and SHA_FINAL every command keeps SHATAG; an absorb stays in the Ready context it found. -/
theorem committed_shatag {i : Instr} (s : State) (m : List Byte) (hinit : i ≠ .shaInit) (hfinal : i ≠ .shaFinal) :
    (committed i s m).sha.shatag = s.sha.shatag := by
  cases i with
  | shaInit => exact absurd rfl hinit
  | shaFinal => exact absurd rfl hfinal
  | _ => simp [committed]

/-- Settles O37: a rejection keeps the context, and so does every commit but the two named. -/
theorem contextLifecycle : Obligations.ContextLifecycle := by
  unfold Obligations.ContextLifecycle
  intro i s t h changed
  obtain ⟨-, ⟨e, -, rfl⟩ | ⟨-, m, -, rfl⟩⟩ := exec_next h
  · exact absurd rfl changed
  · by_cases hinit : i = .shaInit
    · subst hinit
      exact ⟨rfl, .inl ⟨rfl, rfl⟩⟩
    by_cases hfinal : i = .shaFinal
    · subst hfinal
      exact ⟨rfl, .inr ⟨rfl, rfl⟩⟩
    exact absurd (committed_shatag s m hinit hfinal) changed

end Sys2Proof.Machine
end

section
/-! The host's registers (10_state.md R23 to R29, R45, R46): the bits of STATUS, and what a 32-bit access at a register's
own offset answers outside the BUSY window. -/

namespace Sys2Proof.Machine

/-! ### STATUS -/

theorem getElem_flagWord (b : Bool) {i : Nat} (hi : i < 32) : (flagWord b)[i] = (decide (i = 0) && b) := by
  cases b <;> simp [flagWord]

/-- STATUS bit by bit (R25): each bit is that of its own field. -/
theorem getLsbD_statusWord (s : State) {i : Nat} (hi : i < 32) :
    (statusWord s).getLsbD i =
      if i = 0 then s.busy else if i = 1 then s.fatal
      else if 8 ≤ i ∧ i < 12 then (errCode s.err).getLsbD (i - 8)
      else if i = 16 then shaReady s else if i = 17 then s.aes.keyvalid
      else if 18 ≤ i ∧ i < 20 then (keySize s).getLsbD (i - 18) else false := by
  unfold statusWord
  interval_cases i <;> simp [getElem_flagWord]

/-- A range inside the reserved bits 7:2, 15:12 and 31:20 reads 0. -/
theorem statusWord_reserved (s : State) {a n : Nat}
    (h : (2 ≤ a ∧ a + n ≤ 8) ∨ (12 ≤ a ∧ a + n ≤ 16) ∨ (20 ≤ a ∧ a + n ≤ 32)) :
    (statusWord s).extractLsb' a n = 0#n := by
  refine BitVec.eq_of_getLsbD_eq fun j hj => ?_
  simp only [BitVec.getLsbD_extractLsb', hj, decide_true, Bool.true_and, BitVec.getLsbD_zero]
  rw [getLsbD_statusWord s (by omega), if_neg (by omega), if_neg (by omega), if_neg (by omega), if_neg (by omega),
    if_neg (by omega), if_neg (by omega)]

theorem statusWord_err (s : State) : (statusWord s).extractLsb' 8 4 = errCode s.err := by
  refine BitVec.eq_of_getLsbD_eq fun j hj => ?_
  simp only [BitVec.getLsbD_extractLsb', hj, decide_true, Bool.true_and]
  rw [getLsbD_statusWord s (by omega), if_neg (by omega), if_neg (by omega), if_pos (by omega), Nat.add_sub_cancel_left]

theorem statusWord_keySize (s : State) : (statusWord s).extractLsb' 18 2 = keySize s := by
  refine BitVec.eq_of_getLsbD_eq fun j hj => ?_
  simp only [BitVec.getLsbD_extractLsb', hj, decide_true, Bool.true_and]
  rw [getLsbD_statusWord s (by omega), if_neg (by omega), if_neg (by omega), if_neg (by omega), if_neg (by omega),
    if_neg (by omega), if_pos (by omega), Nat.add_sub_cancel_left]

theorem shaReady_eq (s : State) : shaReady s = decide (s.sha.shatag = .ready) := rfl

theorem keySize_without_key {s : State} (h : s.aes.keyvalid = false) : keySize s = 0#2 := by
  simp [keySize, h]

theorem keySize_with_key {s : State} (h : s.aes.keyvalid = true) :
    keySize s = if s.aes.nk = 6 then 1#2 else if s.aes.nk = 8 then 2#2 else 0#2 := by
  simp [keySize, h]

/-- The fourth value of KEY_SIZE never occurs. -/
theorem keySize_ne_three (s : State) : keySize s ≠ 3#2 := by
  unfold keySize
  split
  · split
    · decide
    · split <;> decide
  · decide

/-- Settles O39, from the bits of STATUS and the values of KEY_SIZE. -/
theorem statusFieldsReadTheirState : Obligations.StatusFieldsReadTheirState := by
  unfold Obligations.StatusFieldsReadTheirState
  intro s
  dsimp only
  rw [statusWord_keySize]
  refine ⟨getLsbD_statusWord s (i := 0) (by decide), getLsbD_statusWord s (i := 1) (by decide),
    statusWord_reserved s (by decide), statusWord_err s,
    statusWord_reserved s (by decide), getLsbD_statusWord s (i := 16) (by decide),
    getLsbD_statusWord s (i := 17) (by decide), statusWord_reserved s (by decide),
    keySize_without_key, fun hk => ?_, keySize_ne_three s⟩
  rw [keySize_with_key hk]
  exact ⟨fun hnk => by simp [hnk], fun hnk => by simp [hnk], fun hnk => by simp [hnk]⟩

/-! ### An access at a register's own offset -/

theorem regAt_regOffset (r : HostReg) : regAt (regOffset r) = some r := by
  cases r with
  | iv k => fin_cases k <;> rfl
  | _ => rfl

theorem regOffset_lt (r : HostReg) : regOffset r < 0x1000 := by
  cases r with
  | iv k => simp only [regOffset]; omega
  | _ => simp [regOffset]

theorem busTarget_regOffset (size : Nat) (r : HostReg) : busTarget size 32 (regOffset r) = some (.reg r) := by
  simp [busTarget, regOffset_lt, regAt_regOffset]

section Access

variable {s : State} {ts : List Turn}

theorem step_write_reg (hc : s.cfg.chainMode = .cbc) (hb : s.busy = false) (hw : s.busyWindow = false) {v : Word}
    (r : HostReg) (h : NextWrite s 32 (regOffset r) v ts) : step s = .next (regWrite v { s with turns := ts } r) := by
  obtain ⟨hturns, hoff⟩ := h
  rw [step_host hturns]
  simp [hostAccess, underConfig_cbc, hc, busOffset_window _ hoff, hostWrite, inBusyWindow, hb, hw, busTarget_regOffset]

theorem step_read_reg (hc : s.cfg.chainMode = .cbc) (hb : s.busy = false) (hw : s.busyWindow = false)
    (r : HostReg) (h : NextRead s 32 (regOffset r) ts) : step s = .next (regReadDone r { s with turns := ts }) := by
  obtain ⟨hturns, hoff⟩ := h
  rw [step_host hturns]
  simp [hostAccess, underConfig_cbc, hc, busOffset_window _ hoff, hostRead, inBusyWindow, hb, hw, busTarget_regOffset]

end Access

/-! ### IV0 to IV3 -/

/-- Byte `j` of the IV register after a write of IVk (R46). -/
theorem ivSetWord_getElem? (iv : Vector Byte 16) (k : Fin 4) (v : Word) {j : Nat} (hj : j < 16) :
    (ivSetWord iv k v).toList[j]? =
      if j / 4 = k.val then some (v.extractLsb' (8 * (j % 4)) 8) else iv.toList[j]? := by
  have old : iv.toList[j]? = some iv[j] := by simp [hj]
  have new : (ivSetWord iv k v).toList[j]? = some (ivSetWord iv k v)[j] := by simp [hj]
  rw [old, new, ← apply_ite some]
  simp [ivSetWord, busByte, Vector.get]

/-- The four bytes of a bus read, the first one the least significant (20_memory.md R65). -/
theorem busValue_four (b0 b1 b2 b3 : Byte) : busValue [b0, b1, b2, b3] = b3 ++ b2 ++ b1 ++ b0 := by
  refine BitVec.eq_of_getLsbD_eq fun i hi => ?_
  rw [BitVec.getLsbD_append, BitVec.getLsbD_append, BitVec.getLsbD_append]
  interval_cases i <;> simp [busValue]

theorem take_four_drop {l : List Byte} {n : Nat} (h : n + 4 ≤ l.length) :
    (l.drop n).take 4 = [l.getD n 0#8, l.getD (n + 1) 0#8, l.getD (n + 2) 0#8, l.getD (n + 3) 0#8] := by
  have get (i : Nat) (hi : i < 4) : l.getD (n + i) 0#8 = l[n + i] := List.getD_eq_getElem _ _ (by omega)
  refine List.ext_getElem (by simp; omega) fun i hi _ => ?_
  have four : i < 4 := by simp at hi; omega
  rw [List.getElem_take, List.getElem_drop, ← get i four]
  interval_cases i <;> rfl

theorem ivWord_eq (s : State) (k : Fin 4) :
    ivWord s k =
      s.iv.toList.getD (4 * k.val + 3) 0#8 ++ s.iv.toList.getD (4 * k.val + 2) 0#8 ++
      s.iv.toList.getD (4 * k.val + 1) 0#8 ++ s.iv.toList.getD (4 * k.val) 0#8 := by
  rw [ivWord, ivBytes, take_four_drop (by simp; omega), busValue_four]

/-- Settles O43: each offset is its register's, where the write does what `regWrite` says. -/
theorem registerWritesStoreOrAreIgnored : Obligations.RegisterWritesStoreOrAreIgnored := by
  unfold Obligations.RegisterWritesStoreOrAreIgnored
  intro s v ts hc hb hw
  refine ⟨step_write_reg hc hb hw .src, step_write_reg hc hb hw .len, step_write_reg hc hb hw .dst, ?_, ?_⟩
  · rintro (h | h | h)
    · exact step_write_reg hc hb hw .status h
    · exact step_write_reg hc hb hw .outlen h
    · exact step_write_reg hc hb hw .rngout h
  · intro k hk h
    exact ⟨ivSetWord s.iv ⟨k, hk⟩ v, step_write_reg hc hb hw (.iv ⟨k, hk⟩) h, fun j hj => ivSetWord_getElem? _ _ _ hj⟩

/-- Settles O44: each offset is its register's, where the read returns what `regRead` says. -/
theorem registerReadsReturnTheirValue : Obligations.RegisterReadsReturnTheirValue := by
  unfold Obligations.RegisterReadsReturnTheirValue
  intro s ts hc hb hw
  refine ⟨step_read_reg hc hb hw .cmd, step_read_reg hc hb hw .src, step_read_reg hc hb hw .len,
    step_read_reg hc hb hw .dst, step_read_reg hc hb hw .outlen, step_read_reg hc hb hw .rngout, fun k hk h => ?_⟩
  rw [← ivWord_eq s ⟨k, hk⟩]
  exact step_read_reg hc hb hw (.iv ⟨k, hk⟩) h

end Sys2Proof.Machine
end

section
/-! DMEM as a command sees it (20_memory.md R69, R78; 40_command_cycle.md R123 to R126): the fault of an unwritten source
byte, and what a command leaves of DMEM. -/

namespace Sys2Proof.Machine

/-! ### A command that passes its checks -/

/-- The converse of `preError_none`: FATAL clear, the ranges inside DMEM, and checks 4 and 5 passed. -/
theorem preError_eq_none {i : Instr} {s : State} (hf : s.fatal = false)
    (hsrc : rangeFits s.cfg.dmemSize (sourceRange i s) = true) (hdst : rangeFits s.cfg.dmemSize (destRange i s) = true)
    (hctx : contextError i s = none) (hlen : lengthError i s = none) : preError i s = none := by
  simp [preError, fatalError_clear hf, boundsError, hsrc, hdst, hctx, hlen]

theorem needsReadyContext_ready {s : State} (h : s.sha.shatag = .ready) : needsReadyContext s = none := by
  simp [needsReadyContext, h]

theorem needsKey_loaded {s : State} (h : s.aes.keyvalid = true) : needsKey s = none := by
  simp [needsKey, h]

/-- The key lengths of 42_aes.md R220. -/
theorem keyLengthLegal_iff (n : Nat) : keyLengthLegal n = true ↔ n = 16 ∨ n = 24 ∨ n = 32 := by
  simp [keyLengthLegal, or_assoc]

/-! ### An unwritten source byte -/

/-- A command that passes its checks stops at the lowest unwritten byte of its source range. -/
theorem exec_faults_at_lowest {s : State} {u : Nat} (hruns : s.runs) (hge : s.src.toNat ≤ u)
    (hnone : memByte s.dmem u = none) (hlow : ∀ x, s.src.toNat ≤ x → x < u → memByte s.dmem x ≠ none) (i : Instr)
    (hu : u < s.src.toNat + sourceLength i s)
    (hsrc : rangeFits s.cfg.dmemSize (sourceRange i s) = true) (hdst : rangeFits s.cfg.dmemSize (destRange i s) = true)
    (hctx : contextError i s = none) (hlen : lengthError i s = none) : exec i s = .fault (.unwrittenRead u) :=
  exec_unwritten hruns.1 (preError_eq_none hruns.2 hsrc hdst hctx hlen)
    ((memRead_unwritten_iff _ _ _ _).2 ⟨hge, hu, hnone, hlow⟩)

/-- The padded length as R254 writes it (43_pkcs7_chain.md). -/
theorem paddedLength_eq (n : Nat) : paddedLength n = n + 16 - n % 16 := by
  unfold paddedLength padLength
  omega

/-- Settles O14: each command's checks 3 to 5 pass under the hypotheses that its clause gives. -/
theorem unwrittenSourceFaults : Obligations.UnwrittenSourceFaults := by
  unfold Obligations.UnwrittenSourceFaults
  intro s u hruns hge hnone hlow
  have faults := exec_faults_at_lowest hruns hge hnone hlow
  refine ⟨fun hu hsrc => ⟨fun hready => ?_, fun hlen => ?_, fun hdst => ?_, fun hdst => ?_⟩,
    fun hu hsrc hdst hkey => ?_⟩
  · exact faults .shaAbsorb hu (decide_eq_true hsrc) rfl (needsReadyContext_ready hready) rfl
  · exact faults .aesKey hu (decide_eq_true hsrc) rfl rfl (if_pos ((keyLengthLegal_iff _).2 hlen))
  · rw [← paddedLength_eq] at hdst
    exact ⟨faults .pad hu (decide_eq_true hsrc) (decide_eq_true hdst) rfl rfl,
      fun hkey => faults .encrypt hu (decide_eq_true hsrc) (decide_eq_true hdst) (needsKey_loaded hkey) rfl⟩
  · exact ⟨faults .unpad hu (decide_eq_true hsrc) (decide_eq_true hdst) rfl rfl,
      fun hkey hmod => faults .decrypt hu (decide_eq_true hsrc) (decide_eq_true hdst) (needsKey_loaded hkey) (if_pos hmod)⟩
  · exact ⟨faults .aesEnc hu (decide_eq_true hsrc) (decide_eq_true hdst) (needsKey_loaded hkey) rfl,
      faults .aesDec hu (decide_eq_true hsrc) (decide_eq_true hdst) (needsKey_loaded hkey) rfl⟩

/-! ### What a command leaves of DMEM -/

/-- `t` has committed the bytes `bs` at DST of `s`, inside DMEM, and reports their number (40_command_cycle.md R125). -/
structure OutputAtDst (s t : State) (bs : List Byte) : Prop where
  fits : s.dst.toNat + bs.length ≤ s.cfg.dmemSize
  err : t.err = .ok
  outlen : t.outlen = BitVec.ofNat 32 bs.length
  dmem : t.dmem = memWrite s.dmem s.dst.toNat bs

/-- A commit at DST from a state that has DST and DMEM of `s`. -/
theorem commitAtDst_output {s s' : State} {bs : List Byte} (hdst : s'.dst = s.dst) (hdmem : s'.dmem = s.dmem)
    (fits : s.dst.toNat + bs.length ≤ s.cfg.dmemSize) : OutputAtDst s (commitAtDst bs s') bs where
  fits := fits
  err := rfl
  outlen := rfl
  dmem := by rw [← hdst, ← hdmem]; rfl

/-- The end of UNPAD and DECRYPT writes at most the checked range: nothing when the padding is malformed, else the
stripped bytes. -/
theorem commitUnpadded_output {s : State} {b : List Byte} (fits : s.dst.toNat + b.length ≤ s.cfg.dmemSize) :
    (commitUnpadded b s).dmem = s.dmem ∨ ∃ bs, OutputAtDst s (commitUnpadded b s) bs := by
  obtain ⟨-, heq⟩ | ⟨r, hr, heq⟩ := commitUnpadded_cases b s
  · exact .inl (by rw [heq, reject_dmem])
  · have short := pkcs7Unpad_length_le hr
    exact .inr ⟨r, heq ▸ commitAtDst_output rfl rfl (by omega)⟩

/-- The end of ENCRYPT writes as many bytes as the padded plaintext has. -/
theorem commitEncrypted_output {s s' : State} {m : List Byte} (iv : List Byte) (hdst : s'.dst = s.dst)
    (hdmem : s'.dmem = s.dmem) (fits : s.dst.toNat + paddedLength m.length ≤ s.cfg.dmemSize) :
    ∃ bs, OutputAtDst s (commitEncrypted iv m s') bs := by
  rw [← chainEnc_length (keyWords s') s'.aes.nr iv m] at fits
  exact ⟨_, fits, rfl, rfl, by rw [commitEncrypted_dmem, hdst, hdmem]⟩

/-- A command that has passed its checks keeps DMEM, or has a destination range and writes its output at DST, inside
DMEM. -/
theorem committed_output {i : Instr} {s : State} {m : List Byte} (hp : preError i s = none)
    (hm : m.length = sourceLength i s) :
    (committed i s m).dmem = s.dmem ∨ (destRange i s ≠ none ∧ ∃ bs, OutputAtDst s (committed i s m) bs) := by
  obtain ⟨-, -, dest⟩ := preError_none hp
  cases i with
  | shaInit | shaAbsorb | aesKey => exact .inl rfl
  | rngGet => exact .inl (rngAfter_dmem 1 s)
  | shaFinal | aesEnc | aesDec =>
    exact .inr ⟨nofun, _, commitAtDst_output rfl rfl (of_decide_eq_true dest)⟩
  | pad =>
    refine .inr ⟨nofun, _, commitAtDst_output rfl rfl ?_⟩
    rw [pkcs7Pad_length, hm]
    exact of_decide_eq_true dest
  | unpad =>
    refine (commitUnpadded_output ?_).imp_right fun out => ⟨nofun, out⟩
    rw [hm]
    exact of_decide_eq_true dest
  | encrypt =>
    refine .inr ⟨nofun, commitEncrypted_output _ (rngAfter_dst 16 s) (rngAfter_dmem 16 s) ?_⟩
    rw [hm]
    exact of_decide_eq_true dest
  | decrypt =>
    have short := chainDec_length_le (keyWords s) s.aes.nr (ivBytes s) m
    rw [hm] at short
    exact (commitUnpadded_output ((Nat.add_le_add_left short _).trans (of_decide_eq_true dest))).imp_right
      fun out => ⟨nofun, out⟩

theorem memWrite_keptOutside (m : Memory) (a : Nat) (bs : List Byte) :
    KeptOutside m (memWrite m a bs) a bs.length := fun _ h => memByte_memWrite_outside h

/-- OUTLEN holds the length of an output that fits in a legal DMEM (00_scope.md R7). -/
theorem OutputAtDst.outlen_toNat {s t : State} {bs : List Byte} (h : OutputAtDst s t bs)
    (hsize : s.cfg.dmemSize ≤ 0xF000) : t.outlen.toNat = bs.length := by
  have fits := h.fits
  rw [h.outlen, BitVec.toNat_ofNat, Nat.mod_eq_of_lt (by omega)]

/-- Settles O35: a rejection keeps DMEM, and a commit keeps it or writes its output at DST and reports its length. -/
theorem dmemKeptOutsideReportedOutput : Obligations.DmemKeptOutsideReportedOutput := by
  unfold Obligations.DmemKeptOutsideReportedOutput
  intro i s t hsize h
  obtain ⟨-, ⟨e, -, rfl⟩ | ⟨hp, m, hm, rfl⟩⟩ := exec_next h
  · exact ⟨fun _ _ => rfl, fun _ _ => rfl⟩
  obtain same | ⟨hdest, bs, out⟩ := committed_output hp (memRead_length hm)
  · rw [same]
    exact ⟨fun _ _ => rfl, fun _ _ => rfl⟩
  · refine ⟨?_, fun hkeeps => ?_⟩
    · rw [out.dmem, out.outlen_toNat hsize]
      exact memWrite_keptOutside _ _ _
    · obtain rfl | rfl | rfl | rfl | herr := hkeeps
      · exact absurd rfl hdest
      · exact absurd rfl hdest
      · exact absurd rfl hdest
      · exact absurd rfl hdest
      · exact absurd out.err herr

end Sys2Proof.Machine
end

section
/-! DMEM as the host sees it (20_memory.md R60 to R70): which accesses are bus faults, and the byte order of a read and a
write. -/

namespace Sys2Proof.Machine

/-! ### Where an access falls -/

/-- `regAt` answers at the registers' own offsets alone. -/
theorem regOffset_of_regAt {off : Nat} {r : HostReg} (h : regAt off = some r) : regOffset r = off := by
  unfold regAt at h
  split at h <;> cases h <;> rfl

/-- Every register's offset is a multiple of 4 below 0x030, and 0x01C is none (10_state.md R23, R47). -/
theorem regOffset_legal (r : HostReg) : regOffset r % 4 = 0 ∧ regOffset r ≠ 0x01C ∧ regOffset r < 0x030 := by
  cases r with
  | iv k => simp only [regOffset]; omega
  | _ => decide

/-- An access of register space that is misaligned, of a wrong width or reserved has no target. -/
theorem busTarget_register_none {size width off : Nat} (hoff : off < 0x1000)
    (h : width ≠ 32 ∨ off % 4 ≠ 0 ∨ off = 0x01C ∨ 0x030 ≤ off) : busTarget size width off = none := by
  refine Option.eq_none_iff_forall_ne_some.2 fun x hx => ?_
  obtain ⟨r, -, -, hwidth, hr⟩ | ⟨-, hge, -⟩ := busTarget_some hx
  · have := regOffset_legal r
    rw [regOffset_of_regAt hr] at this
    omega
  · omega

/-- A DMEM access of a wrong width, misaligned or past the end has no target. -/
theorem busTarget_dmem_none {size width off : Nat} (hoff : 0x1000 ≤ off)
    (h : (width ≠ 8 ∧ width ≠ 16 ∧ width ≠ 32) ∨ off % (width / 8) ≠ 0 ∨ 0x1000 + size < off + width / 8) :
    busTarget size width off = none := by
  refine Option.eq_none_iff_forall_ne_some.2 fun x hx => ?_
  obtain ⟨r, -, hlt, -⟩ | ⟨-, -, hwidth, halign, hfits⟩ := busTarget_some hx
  · omega
  · omega

/-- A naturally aligned access of 1, 2 or 4 bytes inside DMEM falls on them. -/
theorem busTarget_dmem {size a n : Nat} (hn : n = 1 ∨ n = 2 ∨ n = 4) (halign : a % n = 0) (hfits : a + n ≤ size) :
    busTarget size (8 * n) (0x1000 + a) = some (.dmem a n) := by
  have bytes : 8 * n / 8 = n := Nat.mul_div_cancel_left n (by decide)
  have offset : 0x1000 + a - 0x1000 = a := Nat.add_sub_cancel_left ..
  have width : 8 * n = 8 ∨ 8 * n = 16 ∨ 8 * n = 32 := by omega
  have aligned : (0x1000 + a) % n = 0 := by obtain rfl | rfl | rfl := hn <;> omega
  rw [busTarget, if_neg (by omega), bytes, offset, if_pos ⟨width, aligned, hfits⟩]

/-! ### A host access outside a BUSY window -/

section Access

variable {s : State} {width off : Nat} {v : Word} {ts : List Turn} (hc : s.cfg.chainMode = .cbc)
include hc

theorem step_read (h : NextRead s width off ts) : step s = hostRead width off { s with turns := ts } := by
  obtain ⟨hturns, hoff⟩ := h
  simp [step_host hturns, hostAccess, underConfig_cbc, hc, busOffset_window _ hoff]

theorem step_write (h : NextWrite s width off v ts) : step s = hostWrite width off v { s with turns := ts } := by
  obtain ⟨hturns, hoff⟩ := h
  simp [step_host hturns, hostAccess, underConfig_cbc, hc, busOffset_window _ hoff]

variable (hb : s.busy = false) (hw : s.busyWindow = false)
include hb hw

theorem step_read_busFault (h : NextRead s width off ts) (target : busTarget s.cfg.dmemSize width off = none) :
    step s = .fault (.busFault off width) := by
  rw [step_read hc h]
  simp [hostRead, inBusyWindow, hb, hw, target]

theorem step_write_busFault (h : NextWrite s width off v ts) (target : busTarget s.cfg.dmemSize width off = none) :
    step s = .fault (.busFault off width) := by
  rw [step_write hc h]
  simp [hostWrite, inBusyWindow, hb, hw, target]

variable {a n : Nat} (target : busTarget s.cfg.dmemSize width off = some (.dmem a n))
include target

theorem step_read_bytes (h : NextRead s width off ts) {bs : List Byte} (read : memRead s.dmem a n = .bytes bs) :
    step s = .next { s with rdata := busValue bs, turns := ts } := by
  rw [step_read hc h]
  simp [hostRead, inBusyWindow, hb, hw, target, read]

theorem step_read_unwritten (h : NextRead s width off ts) {u : Nat} (read : memRead s.dmem a n = .unwritten u) :
    step s = .fault (.unwrittenRead u) := by
  rw [step_read hc h]
  simp [hostRead, inBusyWindow, hb, hw, target, read]

theorem step_write_dmem (h : NextWrite s width off v ts) :
    step s = .next { s with dmem := memWrite s.dmem a (busBytes v n), turns := ts } := by
  rw [step_write hc h]
  simp [hostWrite, inBusyWindow, hb, hw, target]

end Access

/-- Settles O42: such an access has no target in the window. -/
theorem illegalAccessIsBusFault : Obligations.IllegalAccessIsBusFault := by
  unfold Obligations.IllegalAccessIsBusFault
  intro s width off v ts hc hb hw hillegal
  have notarget : busTarget s.cfg.dmemSize width off = none := by
    obtain ⟨hoff, h⟩ | ⟨hoff, h⟩ := hillegal
    · exact busTarget_register_none hoff h
    · exact busTarget_dmem_none hoff h
  exact ⟨fun h => step_write_busFault hc hb hw h notarget, fun h => step_read_busFault hc hb hw h notarget⟩

/-! ### Byte order (20_memory.md R65) -/

@[simp] theorem busBytes_length (v : Word) (n : Nat) : (busBytes v n).length = n := by
  simp [busBytes]

theorem busBytes_getElem (v : Word) {n j : Nat} (hj : j < (busBytes v n).length) :
    (busBytes v n)[j] = v.extractLsb' (8 * j) 8 := by
  simp [busBytes, busByte]

/-- Settles O45: the access falls on the `n` bytes at `a`, which `memWrite` stores one by one. -/
theorem dmemWriteIsLittleEndian : Obligations.DmemWriteIsLittleEndian := by
  unfold Obligations.DmemWriteIsLittleEndian
  intro s a n v ts hc hb hw hn halign hfits h
  refine ⟨memWrite s.dmem a (busBytes v n), step_write_dmem hc hb hw (busTarget_dmem hn halign hfits) h,
    fun j hj => ?_, ?_⟩
  · rw [memByte_memWrite_inside (by simpa using hj), busBytes_getElem]
  · have kept := memWrite_keptOutside s.dmem a (busBytes v n)
    rwa [busBytes_length] at kept

/-- While the shift drops no bit, a byte string reads as its first byte and 256 times the rest. -/
theorem toNat_busValue_cons {b : Byte} {bs : List Byte} (h : (busValue bs).toNat < 2 ^ 24) :
    (busValue (b :: bs)).toNat = b.toNat + 2 ^ 8 * (busValue bs).toNat := by
  have low : (b.setWidth 32).toNat = b.toNat := by simp; omega
  have high : (busValue bs <<< 8).toNat = (busValue bs).toNat <<< 8 := by
    rw [BitVec.toNat_shiftLeft, Nat.shiftLeft_eq, Nat.mod_eq_of_lt (by omega)]
  rw [busValue, BitVec.toNat_or, low, high, ← Nat.shiftLeft_add_eq_or_of_lt b.isLt, Nat.shiftLeft_eq]
  omega

theorem toNat_busValue_lt {bs : List Byte} (h : bs.length ≤ 4) : (busValue bs).toNat < 2 ^ (8 * bs.length) := by
  induction bs with
  | nil => decide
  | cons b bs ih =>
    have rest := ih (by simp at h; omega)
    have short : 2 ^ (8 * bs.length) ≤ 2 ^ 24 := Nat.pow_le_pow_right (by decide) (by simp at h; omega)
    rw [toNat_busValue_cons (by omega), List.length_cons, Nat.mul_add, Nat.pow_add]
    omega

/-- One more byte at the lowest place of the sum of R65. -/
theorem busSum_cons (b : Byte) (bs : List Byte) (n : Nat) :
    ((List.range (n + 1)).map fun j => ((b :: bs).getD j 0#8).toNat * 2 ^ (8 * j)).sum =
      b.toNat + 2 ^ 8 * ((List.range n).map fun j => (bs.getD j 0#8).toNat * 2 ^ (8 * j)).sum := by
  have shift (j : Nat) : 2 ^ (8 * (j + 1)) = 2 ^ 8 * 2 ^ (8 * j) := by rw [Nat.mul_succ, Nat.pow_add, Nat.mul_comm]
  simp only [List.range_succ_eq_map, List.map_cons, List.map_map, List.sum_cons, Function.comp_def,
    List.getD_cons_zero, List.getD_cons_succ, shift, ← List.sum_map_mul_left, Nat.mul_left_comm]
  simp

/-- The value of a bus read of at most four bytes (R65). -/
theorem toNat_busValue {bs : List Byte} (h : bs.length ≤ 4) :
    (busValue bs).toNat = ((List.range bs.length).map fun j => (bs.getD j 0#8).toNat * 2 ^ (8 * j)).sum := by
  induction bs with
  | nil => rfl
  | cons b bs ih =>
    have hlen : bs.length ≤ 3 := Nat.le_of_succ_le_succ h
    have small : (busValue bs).toNat < 2 ^ 24 :=
      (toNat_busValue_lt (by omega)).trans_le (Nat.pow_le_pow_right (by decide) (by omega))
    rw [toNat_busValue_cons small, ih (by omega), List.length_cons, busSum_cons]

/-- Settles O46: the access falls on the `n` bytes at `a`, which `memRead` answers or finds unwritten. -/
theorem dmemReadIsLittleEndian : Obligations.DmemReadIsLittleEndian := by
  unfold Obligations.DmemReadIsLittleEndian
  intro s a n ts hc hb hw hn halign hfits h
  have target := busTarget_dmem hn halign hfits
  refine ⟨fun m ⟨hlen, hm⟩ => ?_, fun ⟨j, hj, hnone⟩ => ?_⟩
  · subst hlen
    have read : memRead s.dmem a m.length = .bytes m :=
      (memRead_bytes_iff _ _ _ _).2 ⟨rfl, fun i hi => (hm i hi).trans (List.getElem?_eq_getElem hi)⟩
    exact ⟨busValue m, step_read_bytes hc hb hw target h read, toNat_busValue (by omega)⟩
  · cases read : memRead s.dmem a n with
    | bytes bs =>
      obtain ⟨hlen, hbs⟩ := (memRead_bytes_iff _ _ _ _).1 read
      have written := hbs j (by omega)
      simp [hnone] at written
    | unwritten u =>
      obtain ⟨hge, hlt, hu, -⟩ := memRead_unwritten read
      exact ⟨u, step_read_unwritten hc hb hw target h read, hge, hlt, hu⟩

end Sys2Proof.Machine
end

section
/-! The decoder (30_encoding.md R91 to R97): the fields of a command word, the two verdicts, the word of a command. -/

namespace Sys2Proof

/-- A command word is its two fields (R91). -/
theorem wordReserved_append_wordOpcode (w : Word) : wordReserved w ++ wordOpcode w = w :=
  (BitVec.extractLsb'_append_extractLsb'_eq_extractLsb' rfl).trans BitVec.extractLsb'_eq_self

theorem wordOpcode_toNat (w : Word) : (wordOpcode w).toNat = w.toNat % 256 := by
  simp [wordOpcode]

theorem wordReserved_eq_zero_iff (w : Word) : wordReserved w = 0#24 ↔ w.toNat / 256 = 0 := by
  have := w.isLt
  rw [wordReserved, ← BitVec.toNat_inj, BitVec.extractLsb'_toNat, Nat.shiftRight_eq_div_pow, BitVec.toNat_ofNat]
  omega

theorem decode_eq_command_iff (w : Word) (i : Instr) :
    decode w = .command i ↔ wordReserved w = 0#24 ∧ opcodeMap.lookup (wordOpcode w) = some i := by
  unfold decode decodeOpcode
  split
  next h => cases opcodeMap.lookup (wordOpcode w) <;> simp [h]
  next h => simp [h]

/-- A word is illegal when it is no command. -/
theorem decode_eq_illegal_iff (w : Word) :
    decode w = .illegal ↔ wordReserved w ≠ 0#24 ∨ opcodeMap.lookup (wordOpcode w) = none := by
  have verdict : decode w = .illegal ↔ ∀ i, decode w ≠ .command i := by cases decode w <;> simp
  rw [verdict, Option.eq_none_iff_forall_ne_some]
  simp only [ne_eq, decode_eq_command_iff, not_and, imp_iff_not_or, forall_or_left]

/-- Each row of the opcode map, under a clear RSVD field, is its command's word. -/
theorem encode_of_mem_opcodeMap : ∀ row ∈ opcodeMap, encode row.2 = 0#24 ++ row.1 := by decide

theorem decode_encode (i : Instr) : decode (encode i) = .command i := by
  cases i <;> rfl

/-- Settles O1: the verdict fixes both fields, and the opcode map has the OPCODE in the command's own row. -/
theorem decodeExactlyInvertsEncode : Obligations.DecodeExactlyInvertsEncode := by
  unfold Obligations.DecodeExactlyInvertsEncode
  refine fun w i => ⟨fun h => ?_, fun h => h ▸ decode_encode i⟩
  obtain ⟨hreserved, hlookup⟩ := (decode_eq_command_iff w i).1 h
  obtain ⟨before, after, hmap, -⟩ := List.lookup_eq_some_iff.1 hlookup
  have row : (wordOpcode w, i) ∈ opcodeMap := by simp [hmap]
  calc w = wordReserved w ++ wordOpcode w := (wordReserved_append_wordOpcode w).symm
    _ = 0#24 ++ wordOpcode w := by rw [hreserved]
    _ = encode i := (encode_of_mem_opcodeMap _ row).symm

/-- The OPCODE values that no row assigns (R95). -/
theorem opcodeMap_lookup_eq_none_iff (op : Byte) :
    opcodeMap.lookup op = none ↔
      op.toNat = 0x00 ∨ (0x04 ≤ op.toNat ∧ op.toNat ≤ 0x0F) ∨ (0x13 ≤ op.toNat ∧ op.toNat ≤ 0x1F) ∨
      (0x24 ≤ op.toNat ∧ op.toNat ≤ 0x2F) ∨ 0x31 ≤ op.toNat := by
  have rows : opcodeMap.lookup op = none ↔ ∀ row ∈ opcodeMap, op.toNat ≠ row.1.toNat := by
    simp [List.lookup_eq_none_iff, ← BitVec.toNat_inj]
  rw [rows]
  simp only [opcodeMap, List.mem_cons, List.not_mem_nil, or_false, forall_eq_or_imp, forall_eq, BitVec.toNat_ofNat]
  omega

/-- Settles O2: each field is illegal in its own range. -/
theorem illegalWordsAreReservedOrUnassigned : Obligations.IllegalWordsAreReservedOrUnassigned := by
  unfold Obligations.IllegalWordsAreReservedOrUnassigned
  intro w
  rw [decode_eq_illegal_iff, opcodeMap_lookup_eq_none_iff, wordOpcode_toNat, ne_eq, wordReserved_eq_zero_iff]

/-- Settles O3: each word is the encoding of its command. -/
theorem sampleWordsDecode : Obligations.SampleWordsDecode :=
  ⟨decode_encode .shaAbsorb, decode_encode .aesKey, decode_encode .encrypt, decode_encode .rngGet⟩

end Sys2Proof
end

section
/-! What a command leaves alone, and what it does not read (30_encoding.md R92, R93): the units that its row does not
name, the host's last read value and the waiting turns; the rejection of an illegal word. -/

namespace Sys2Proof.Machine

/-- Settles O6: the sequencer's turn on an illegal word rejects it, and FATAL is clear. -/
theorem illegalWordIsRejected : Obligations.IllegalWordIsRejected := by
  unfold Obligations.IllegalWordIsRejected
  intro s ts ⟨hc, hf⟩ hb hnext hd
  have turn : sequencerTurn { s with turns := ts } = .next (reject .illegalCommand { s with turns := ts }) := by
    simp [sequencerTurn_illegal, fatalError_clear, hc, hf, hb, hd]
  exact ⟨_, (step_sequencerNext hnext).trans turn, rfl⟩

/-! ### Fields that a commit keeps -/

section Commit

variable (i : Instr) (s : State) (m : List Byte)

@[simp] theorem committed_cmd : (committed i s m).cmd = s.cmd := by cases i <;> simp [committed]

@[simp] theorem committed_src : (committed i s m).src = s.src := by cases i <;> simp [committed]

@[simp] theorem committed_len : (committed i s m).len = s.len := by cases i <;> simp [committed]

@[simp] theorem committed_dst : (committed i s m).dst = s.dst := by cases i <;> simp [committed]

@[simp] theorem committed_resets : (committed i s m).resets = s.resets := by cases i <;> simp [committed]

@[simp] theorem committed_busyWindow : (committed i s m).busyWindow = s.busyWindow := by cases i <;> simp [committed]

@[simp] theorem committed_rdata : (committed i s m).rdata = s.rdata := by cases i <;> simp [committed]

@[simp] theorem committed_turns : (committed i s m).turns = s.turns := by cases i <;> simp [committed]

@[simp] theorem committed_busy : (committed i s m).busy = false := by cases i <;> simp [committed]

variable {i}

theorem committed_sha (hinit : i ≠ .shaInit) (habsorb : i ≠ .shaAbsorb) (hfinal : i ≠ .shaFinal) :
    (committed i s m).sha = s.sha := by
  cases i with
  | shaInit => exact absurd rfl hinit
  | shaAbsorb => exact absurd rfl habsorb
  | shaFinal => exact absurd rfl hfinal
  | _ => simp [committed]

theorem committed_aes (hkey : i ≠ .aesKey) : (committed i s m).aes = s.aes := by
  cases i with
  | aesKey => exact absurd rfl hkey
  | _ => simp [committed]

theorem committed_iv (hencrypt : i ≠ .encrypt) : (committed i s m).iv = s.iv := by
  cases i with
  | encrypt => exact absurd rfl hencrypt
  | _ => simp [committed]

theorem committed_rngout (hrng : i ≠ .rngGet) : (committed i s m).rngout = s.rngout := by
  cases i with
  | rngGet => exact absurd rfl hrng
  | _ => simp [committed]

theorem committed_draws (hrng : i ≠ .rngGet) (hencrypt : i ≠ .encrypt) :
    (committed i s m).rngHistory = s.rngHistory ∧ (committed i s m).rngAnswers = s.rngAnswers := by
  cases i with
  | encrypt => exact absurd rfl hencrypt
  | rngGet => exact absurd rfl hrng
  | _ => simp [committed]

end Commit

/-- Settles O34: a rejection keeps every unit, a commit those that the command's row does not name. -/
theorem onlyNamedUnitsChange : Obligations.OnlyNamedUnitsChange := by
  unfold Obligations.OnlyNamedUnitsChange
  intro i s t h
  obtain ⟨-, ⟨e, -, rfl⟩ | ⟨-, m, -, rfl⟩⟩ := exec_next h
  · simp
  · simpa [committed_cfg, committed_fatal] using
      ⟨committed_sha s m, committed_aes s m, committed_iv s m, committed_rngout s m, committed_draws s m⟩

end Sys2Proof.Machine
end

section
/-! The script of a command (30_encoding.md R98, R99): the host's waiting turns and its last read value are no input to a
command, so the turns of `WR CMD` and `WAIT` run one after the other around it. -/

namespace Sys2Proof.Machine

/-! ### The host's side of a state -/

/-- `s` with another last read value and other waiting turns. -/
def State.withHost (v : Word) (ts : List Turn) (s : State) : State := { s with rdata := v, turns := ts }

section Host

variable (v : Word) (ts : List Turn) (s : State)

@[simp] theorem withHost_cfg : (s.withHost v ts).cfg = s.cfg := rfl
@[simp] theorem withHost_src : (s.withHost v ts).src = s.src := rfl
@[simp] theorem withHost_pending : (s.withHost v ts).pending = s.pending := rfl
@[simp] theorem withHost_dmem : (s.withHost v ts).dmem = s.dmem := rfl
@[simp] theorem withHost_turns : (s.withHost v ts).turns = ts := rfl

theorem withHost_self : s.withHost s.rdata s.turns = s := rfl

theorem preError_withHost (i : Instr) : preError i (s.withHost v ts) = preError i s := by
  cases i <;> rfl

theorem sourceLength_withHost (i : Instr) : sourceLength i (s.withHost v ts) = sourceLength i s := by
  cases i <;> rfl

theorem rngDraws_withHost (n : Nat) : rngDraws n (s.withHost v ts) = rngDraws n s := by
  induction n generalizing s with
  | zero => rfl
  | succ n ih => exact congrArg (rngNext s :: ·) (ih (rngAdvance s))

theorem rngAfter_withHost (n : Nat) : rngAfter n (s.withHost v ts) = (rngAfter n s).withHost v ts := by
  induction n generalizing s with
  | zero => rfl
  | succ n ih => exact ih (rngAdvance s)

theorem commitUnpadded_withHost (b : List Byte) :
    commitUnpadded b (s.withHost v ts) = (commitUnpadded b s).withHost v ts := by
  unfold commitUnpadded
  cases pkcs7Unpad b <;> rfl

theorem commitAtDst_withHost (bs : List Byte) :
    commitAtDst bs (s.withHost v ts) = (commitAtDst bs s).withHost v ts := rfl

theorem committed_withHost (i : Instr) (m : List Byte) :
    committed i (s.withHost v ts) m = (committed i s m).withHost v ts := by
  cases i with
  | shaFinal => exact commitAtDst_withHost v ts { s with sha := shaFinalContext s.freeCount s.sha } _
  | aesEnc => exact commitAtDst_withHost v ts s _
  | aesDec => exact commitAtDst_withHost v ts s _
  | unpad => exact commitUnpadded_withHost v ts s m
  | decrypt => exact commitUnpadded_withHost v ts s _
  | encrypt => simp only [committed, rngDraws_withHost, rngAfter_withHost]; rfl
  | _ => rfl

end Host

/-- A command neither reads nor changes the host's side. -/
theorem exec_withHost {i : Instr} {s t : State} (h : exec i s = .next t) (v : Word) (ts : List Turn) :
    exec i (s.withHost v ts) = .next (t.withHost v ts) := by
  obtain ⟨hc, ⟨e, hp, rfl⟩ | ⟨hp, m, hm, rfl⟩⟩ := exec_next h
  · exact exec_rejects hc ((preError_withHost v ts s i).trans hp)
  · rw [← committed_withHost]
    exact exec_commits hc ((preError_withHost v ts s i).trans hp) (by simpa [sourceLength_withHost] using hm)

/-- A command that answers a next state has completed (40_command_cycle.md R127). -/
theorem exec_clears_busy {i : Instr} {s t : State} (h : exec i s = .next t) : t.busy = false := by
  obtain ⟨-, ⟨e, -, rfl⟩ | ⟨-, m, -, rfl⟩⟩ := exec_next h
  · rfl
  · exact committed_busy i s m

/-! ### The turns of a script -/

section Script

variable {s : State} {ts : List Turn} (hc : s.cfg.chainMode = .cbc)
include hc

/-- A STATUS read is legal in a BUSY window and outside one; it leaves the window open exactly when BUSY = 1
(70_reset_and_hazards.md R364). -/
theorem step_scriptRD_status {busy : Bool} (hb : s.busy = busy) (hturns : s.turns = scriptRD s.cfg .status :: ts) :
    step s = .next { s with rdata := statusWord s, busyWindow := busy, turns := ts } := by
  have target : busTarget s.cfg.dmemSize 32 0x004 = some (.reg .status) := busTarget_regOffset _ .status
  calc step s
      = hostRead 32 0x004 { s with turns := ts } := step_read hc ⟨hturns, by decide⟩
    _ = .next (regReadDone .status { s with turns := ts }) := by simp [hostRead, target]
    _ = _ := by rw [← hb]; rfl

theorem step_scriptWR_cmd (hb : s.busy = false) (hw : s.busyWindow = false) {v : Word}
    (hturns : s.turns = scriptWR s.cfg .cmd v :: ts) : step s = .next (issue v { s with turns := ts }) :=
  step_write_reg hc hb hw .cmd ⟨hturns, by decide⟩

end Script

/-- A run goes on from the state that its first step answers. -/
theorem run_of_step {s t : State} (h : step s = .next t) (k : Nat) :
    Sys2Proof.core.run (k + 1) s = Sys2Proof.core.run k t := by
  have hcore : Sys2Proof.core.step s = .next t := h
  simp only [Host.Core.run, hcore]

/-- The sequencer's turn runs the encoded command that PENDING holds. -/
theorem step_encoded_command {i : Instr} {s t : State} (hb : s.busy = true) (hp : s.pending = encode i)
    (h : exec i s = .next t) (v : Word) (ts : List Turn) :
    step (s.withHost v (.sequencer :: ts)) = .next (t.withHost v ts) := by
  have hd : decode (s.withHost v ts).pending = .command i := by rw [withHost_pending, hp, decode_encode]
  calc step (s.withHost v (.sequencer :: ts))
      = sequencerTurn (s.withHost v ts) := step_sequencer (withHost_turns ..)
    _ = exec i (s.withHost v ts) := sequencerTurn_command hb hd
    _ = .next (t.withHost v ts) := exec_withHost h v ts

/-- The STATUS reads that find the core busy change only the value last read. -/
theorem run_polls (polls k : Nat) {s : State} {ts : List Turn} (hc : s.cfg.chainMode = .cbc) (hb : s.busy = true)
    (hw : s.busyWindow = true) (hturns : s.turns = List.replicate polls (scriptRD s.cfg .status) ++ ts) :
    ∃ v, Sys2Proof.core.run (polls + k) s = Sys2Proof.core.run k (s.withHost v ts) := by
  induction polls generalizing s with
  | zero =>
    refine ⟨s.rdata, ?_⟩
    rw [Nat.zero_add, show ts = s.turns from hturns.symm, withHost_self]
  | succ polls ih =>
    have poll := step_scriptRD_status hc hb hturns
    rw [← hw] at poll
    obtain ⟨v, rest⟩ :=
      ih (s := s.withHost (statusWord s) (List.replicate polls (scriptRD s.cfg .status) ++ ts)) hc hb hw rfl
    refine ⟨v, ?_⟩
    rw [Nat.add_right_comm]
    exact (run_of_step poll _).trans rest

/-- Settles O9: the issue, the polls by induction, the sequencer's step on the decoded command, and the STATUS read that
closes the window. -/
theorem scriptedCommandIssuesRunsAndWaits : Obligations.ScriptedCommandIssuesRunsAndWaits := by
  unfold Obligations.ScriptedCommandIssuesRunsAndWaits
  intro s t i polls ts hb hw hturns h
  have hc : s.cfg.chainMode = .cbc := (exec_next h).1
  have hcfg : t.cfg = s.cfg := (exec_keeps_cfg_fatal h).1
  have hidle : t.busy = false := exec_clears_busy h
  have hissue : step s = .next ((issue (encode i) s).withHost s.rdata (scriptWAIT s.cfg polls ++ ts)) :=
    step_scriptWR_cmd (s := s) hc hb hw hturns
  obtain ⟨v, hpolls⟩ :=
    run_polls polls 2 (s := (issue (encode i) s).withHost s.rdata (scriptWAIT s.cfg polls ++ ts))
      (ts := .sequencer :: scriptRD s.cfg .status :: ts) hc rfl rfl (by simp [scriptWAIT])
  have hrun := step_encoded_command (issue_busy ..) (issue_pending ..) h v (scriptRD s.cfg .status :: ts)
  have hlast : step (t.withHost v (scriptRD s.cfg .status :: ts)) =
      .next { t with busyWindow := false, rdata := statusWord t, turns := ts } :=
    step_scriptRD_status (s := t.withHost v (scriptRD s.cfg .status :: ts)) (hcfg ▸ hc) hidle (by simp [hcfg])
  calc Sys2Proof.core.run (polls + 3) s
      = Sys2Proof.core.run (polls + 2) _ := run_of_step hissue _
    _ = Sys2Proof.core.run 2 _ := hpolls
    _ = Sys2Proof.core.run 1 _ := run_of_step hrun _
    _ = Sys2Proof.core.run 0 _ := run_of_step hlast _

end Sys2Proof.Machine
end

section
/-! The command cycle (40_command_cycle.md R120 to R133): the issue, the sequencer's step on the latched word, the range
check, the rejection that leaves everything else alone, and the oracle, which only RNG_GET and ENCRYPT consult. -/

namespace Sys2Proof.Machine

/-! ### Issue and the sequencer's turn -/

/-- Inside a BUSY window every host write is a hazard violation (70_reset_and_hazards.md R364). -/
theorem step_write_hazard {s : State} {width off : Nat} {v : Word} {ts : List Turn} (hc : s.cfg.chainMode = .cbc)
    (h : NextWrite s width off v ts) (hopen : s.busy = true ∨ s.busyWindow = true) :
    step s = .fault (.hostHazard off) := by
  rw [step_write hc h]
  exact if_pos (by simpa [inBusyWindow] using hopen)

/-- Settles O4: CMD stands at offset 0, where a write outside the window issues. -/
theorem cmdWriteIssuesCommand : Obligations.CmdWriteIssuesCommand := by
  unfold Obligations.CmdWriteIssuesCommand
  intro s v ts hnext hc
  exact ⟨fun hb hw => step_write_reg hc hb hw .cmd hnext, step_write_hazard hc hnext⟩

/-- Settles O5, for the two forms of the sequencer's turn. -/
theorem stepRunsDecodedCommand : Obligations.StepRunsDecodedCommand := by
  unfold Obligations.StepRunsDecodedCommand
  intro s i ts hb hd
  exact ⟨fun hturns => (step_idle hturns).trans (sequencerTurn_command hb hd),
    fun hturns => (step_sequencer hturns).trans (sequencerTurn_command (s := { s with turns := ts }) hb hd)⟩

/-- FATAL ranks above the word's legality and above every other check (R123, R129). -/
theorem sequencerTurn_fatal {s : State} (hc : s.cfg.chainMode = .cbc) (hf : s.fatal = true) (hb : s.busy = true) :
    sequencerTurn s = .next (reject .entropySourceUnavailable s) := by
  cases hd : decode s.pending with
  | command i => exact (sequencerTurn_command hb hd).trans (exec_rejects hc (preError_fatal i hf))
  | illegal => rw [sequencerTurn_illegal hc hb hd, fatalError_set hf, Option.getD_some]

/-- Settles O7: both kinds of word are rejected by the FATAL check. -/
theorem fatalDominatesEveryWord : Obligations.FatalDominatesEveryWord := by
  unfold Obligations.FatalDominatesEveryWord
  intro s ts hc hf hb hnext
  have turn := sequencerTurn_fatal (s := { s with turns := ts }) hc hf hb
  exact ⟨_, (step_sequencerNext hnext).trans turn, rfl, rfl⟩

/-! ### Completion -/

/-- The byte at which a command's operand read stops is an unwritten one of its source range. -/
theorem unwrittenInSource_of_memRead {i : Instr} {s : State} {a : Nat}
    (h : memRead s.dmem s.src.toNat (sourceLength i s) = .unwritten a) : UnwrittenInSource i s a := by
  obtain ⟨hge, hlt, hnone, -⟩ := memRead_unwritten h
  exact ⟨hnone, _, sourceRange_of_pos (by omega), hge, hlt⟩

theorem unwrittenInSource_withHost (v : Word) (ts : List Turn) (s : State) (i : Instr) (a : Nat) :
    UnwrittenInSource i (s.withHost v ts) a ↔ UnwrittenInSource i s a := by
  cases i <;> rfl

/-- Under CBC a command completes and keeps the waiting turns, or stops at an unwritten byte of its source range. -/
theorem exec_completes_or_unwritten (i : Instr) {s : State} (hc : s.cfg.chainMode = .cbc) :
    (∃ t, exec i s = .next t ∧ t.busy = false ∧ t.turns = s.turns) ∨
    (∃ a, exec i s = .fault (.unwrittenRead a) ∧ UnwrittenInSource i s a) := by
  obtain ⟨e, -, hx⟩ | ⟨-, m, -, hx⟩ | ⟨-, a, hm, hx⟩ := exec_cases i hc
  · exact .inl ⟨_, hx, rfl, rfl⟩
  · exact .inl ⟨_, hx, committed_busy i s m, committed_turns i s m⟩
  · exact .inr ⟨a, hx, unwrittenInSource_of_memRead hm⟩

/-- Settles O8: an illegal word is rejected, and a command completes or meets an unwritten source byte. -/
theorem issuedCommandAlwaysCompletes : Obligations.IssuedCommandAlwaysCompletes := by
  unfold Obligations.IssuedCommandAlwaysCompletes
  intro s ts hc hb hnext
  have turn : step s = sequencerTurn (s.withHost s.rdata ts) := step_sequencerNext hnext
  rw [turn]
  cases hd : decode s.pending with
  | illegal => exact .inl ⟨_, sequencerTurn_illegal hc hb hd, rfl, rfl⟩
  | command i =>
    have run : sequencerTurn (s.withHost s.rdata ts) = exec i (s.withHost s.rdata ts) := sequencerTurn_command hb hd
    rw [run]
    obtain done | ⟨a, hx, ha⟩ := exec_completes_or_unwritten (s := s.withHost s.rdata ts) i hc
    · exact .inl done
    · exact .inr ⟨i, a, rfl, hx, (unwrittenInSource_withHost ..).1 ha⟩

/-! ### Rejection -/

/-- A command that commits ends without an error, save that the content check of UNPAD and DECRYPT may yet reject it
(R123, step 7). -/
theorem committed_ok_or_rejected (i : Instr) (s : State) (m : List Byte) :
    (committed i s m).err = .ok ∨ committed i s m = reject .invalidPadding s := by
  have unpadded (b : List Byte) : (commitUnpadded b s).err = .ok ∨ commitUnpadded b s = reject .invalidPadding s := by
    obtain ⟨-, heq⟩ | ⟨r, -, heq⟩ := commitUnpadded_cases b s
    · exact .inr heq
    · exact .inl (by rw [heq, commitAtDst_err])
  cases i with
  | unpad | decrypt => exact unpadded _
  | _ => exact .inl rfl

/-- Settles O36: an error comes from a failed check or from the content check, and both reject. -/
theorem rejectedCommandChangesNothing : Obligations.RejectedCommandChangesNothing := by
  unfold Obligations.RejectedCommandChangesNothing
  intro i s t h herr
  obtain ⟨-, ⟨e, -, rfl⟩ | ⟨-, m, -, rfl⟩⟩ := exec_next h
  · rfl
  · obtain hok | hrej := committed_ok_or_rejected i s m
    · exact absurd hok herr
    · rw [hrej]
      rfl

/-- With FATAL clear, a range that leaves DMEM is the first failing check, whatever the later ones find (R123, R124). -/
theorem preError_outside {i : Instr} {s : State} (hf : s.fatal = false)
    (h : rangeFits s.cfg.dmemSize (sourceRange i s) = false ∨ rangeFits s.cfg.dmemSize (destRange i s) = false) :
    preError i s = some .boundsError := by
  have bounds : boundsError i s = some .boundsError := if_neg (by simpa [← Bool.not_eq_true, imp_iff_not_or] using h)
  simp [preError, fatalError_clear hf, bounds]

theorem rangeFits_eq_false {size a n : Nat} (h : size < a + n) : rangeFits size (some (a, n)) = false :=
  decide_eq_false (Nat.not_le.2 h)

/-- Settles O10: each clause's range is that of its commands. -/
theorem rangeOutsideDmemIsBoundsError : Obligations.RangeOutsideDmemIsBoundsError := by
  unfold Obligations.RangeOutsideDmemIsBoundsError
  intro s ⟨hc, hf⟩
  have rejects (i : Instr)
      (h : rangeFits s.cfg.dmemSize (sourceRange i s) = false ∨ rangeFits s.cfg.dmemSize (destRange i s) = false) :
      ∃ t, exec i s = .next t ∧ RejectedWith s t .boundsError := ⟨_, exec_rejects hc (preError_outside hf h), rfl⟩
  refine ⟨fun h => ?_, fun h => ?_, fun h => ?_, fun h => ?_, fun h => ?_⟩
  · exact ⟨rejects .shaAbsorb (.inl (rangeFits_eq_false h)), rejects .aesKey (.inl (rangeFits_eq_false h))⟩
  · exact rejects .shaFinal (.inr (rangeFits_eq_false h))
  · have h := h.imp rangeFits_eq_false rangeFits_eq_false
    exact ⟨rejects .aesEnc h, rejects .aesDec h⟩
  · rw [← paddedLength_eq] at h
    have h := h.imp rangeFits_eq_false rangeFits_eq_false
    exact ⟨rejects .pad h, rejects .encrypt h⟩
  · have h := h.imp rangeFits_eq_false rangeFits_eq_false
    exact ⟨rejects .unpad h, rejects .decrypt h⟩

/-! ### The oracle's state is no input to a command that draws nothing (R133) -/

/-- `s` with another oracle state: the draws so far, the injected answers and the resets (44_rng.md R291, R295). -/
def State.withOracle (history answers : List Byte) (resets : Nat) (s : State) : State :=
  { s with rngHistory := history, rngAnswers := answers, resets := resets }

theorem sameButOracle_iff {s s' : State} :
    SameButOracle s s' ↔ ∃ history answers resets, s' = s.withOracle history answers resets := by
  constructor
  · exact fun h => ⟨_, _, _, h⟩
  · rintro ⟨_, _, _, rfl⟩
    rfl

section Oracle

variable (history answers : List Byte) (resets : Nat)

theorem preError_withOracle (s : State) (i : Instr) :
    preError i (s.withOracle history answers resets) = preError i s := by
  cases i <;> rfl

theorem sourceLength_withOracle (s : State) (i : Instr) :
    sourceLength i (s.withOracle history answers resets) = sourceLength i s := by
  cases i <;> rfl

/-- The operand read sees the same bytes. -/
theorem memRead_withOracle (s : State) (i : Instr) :
    memRead (s.withOracle history answers resets).dmem (s.withOracle history answers resets).src.toNat
      (sourceLength i (s.withOracle history answers resets)) = memRead s.dmem s.src.toNat (sourceLength i s) := by
  rw [sourceLength_withOracle]
  rfl

theorem commitUnpadded_withOracle (s : State) (b : List Byte) :
    commitUnpadded b (s.withOracle history answers resets) = (commitUnpadded b s).withOracle history answers resets := by
  unfold commitUnpadded
  cases pkcs7Unpad b <;> rfl

theorem commitAtDst_withOracle (s : State) (bs : List Byte) :
    commitAtDst bs (s.withOracle history answers resets) = (commitAtDst bs s).withOracle history answers resets := rfl

theorem committed_withOracle {i : Instr} (hrng : i ≠ .rngGet) (hencrypt : i ≠ .encrypt) (s : State) (m : List Byte) :
    committed i (s.withOracle history answers resets) m = (committed i s m).withOracle history answers resets := by
  cases i with
  | rngGet => exact absurd rfl hrng
  | encrypt => exact absurd rfl hencrypt
  | unpad => exact commitUnpadded_withOracle _ _ _ s m
  | decrypt => exact commitUnpadded_withOracle _ _ _ s _
  | aesEnc | aesDec => exact commitAtDst_withOracle _ _ _ s _
  | shaFinal => exact commitAtDst_withOracle _ _ _ { s with sha := shaFinalContext s.freeCount s.sha } _
  | _ => rfl

variable {i : Instr} {s : State}

theorem exec_withOracle_next (hrng : i ≠ .rngGet) (hencrypt : i ≠ .encrypt) {t : State} (h : exec i s = .next t) :
    exec i (s.withOracle history answers resets) = .next (t.withOracle history answers resets) := by
  obtain ⟨hc, ⟨e, hp, rfl⟩ | ⟨hp, m, hm, rfl⟩⟩ := exec_next h
  · exact exec_rejects hc ((preError_withOracle ..).trans hp)
  · rw [← committed_withOracle _ _ _ hrng hencrypt]
    exact exec_commits hc ((preError_withOracle ..).trans hp) ((memRead_withOracle ..).trans hm)

/-- A fault comes from the configuration or from an unwritten source byte, and neither is the oracle's. -/
theorem exec_withOracle_fault {f : Fault} (h : exec i s = .fault f) :
    exec i (s.withOracle history answers resets) = .fault f := by
  cases hc : s.cfg.chainMode with
  | other name => rw [← h, exec_refused hc, exec_refused (s := s.withOracle history answers resets) hc]
  | cbc =>
    obtain ⟨e, -, hx⟩ | ⟨-, m, -, hx⟩ | ⟨hp, a, hm, hx⟩ := exec_cases i hc
    · simp [hx] at h
    · simp [hx] at h
    · rw [← h, hx]
      exact exec_unwritten hc ((preError_withOracle ..).trans hp) ((memRead_withOracle ..).trans hm)

end Oracle

/-- Settles O38: another oracle state carries over to the outcome unchanged. -/
theorem commandsIgnoreTheOracle : Obligations.CommandsIgnoreTheOracle := by
  unfold Obligations.CommandsIgnoreTheOracle
  intro i s s' hrng hencrypt hsame
  obtain ⟨history, answers, resets, rfl⟩ := sameButOracle_iff.1 hsame
  exact ⟨fun t h => ⟨_, exec_withOracle_next history answers resets hrng hencrypt h, rfl⟩,
    fun f h => exec_withOracle_fault history answers resets h⟩

end Sys2Proof.Machine
end

section
/-! The SHA-256 algorithm (41_sha256.md R148 to R153, R163): the message schedule, absorbing a byte, the final padding, and
the invariant by which absorbing byte by byte hashes the padded message. -/

namespace Sys2Proof.Machine

/-! ### The message schedule (R148, R149) -/

theorem shaMessageWords_length (b : List Byte) : (shaMessageWords b).length = 16 := by
  simp [shaMessageWords]

theorem shaExtend_length (n : Nat) (w : List Word) : (shaExtend n w).length = w.length + n := by
  induction n generalizing w with
  | zero => rfl
  | succ n ih => simp [shaExtend, ih]; omega

/-- The words that stand already stay. -/
theorem shaExtend_prefix (n : Nat) (w : List Word) : w <+: shaExtend n w := by
  induction n generalizing w with
  | zero => exact List.prefix_refl w
  | succ n ih => exact (List.prefix_append w _).trans (ih _)

theorem getD_of_prefix {w v : List Word} (h : w <+: v) {k : Nat} (hk : k < w.length) (d : Word) :
    v.getD k d = w.getD k d := by
  obtain ⟨r, rfl⟩ := h
  exact List.getD_append _ _ _ _ hk

/-- Each added word is the next word after the ones before it. -/
theorem shaExtend_getD {n t : Nat} {w : List Word} (hlo : w.length ≤ t) (hhi : t < w.length + n) :
    (shaExtend n w).getD t 0#32 = shaNextWord ((shaExtend n w).take t) := by
  induction n generalizing w with
  | zero => omega
  | succ n ih =>
    by_cases ht : t = w.length
    · subst ht
      have stays := shaExtend_prefix n (w ++ [shaNextWord w])
      have before : (shaExtend (n + 1) w).take w.length = w := (List.prefix_iff_eq_take.1 (shaExtend_prefix _ w)).symm
      rw [before, shaExtend, getD_of_prefix stays (by simp)]
      simp
    · exact ih (by simp; omega) (by simp; omega)

theorem getD_take_of_lt {w : List Word} {k t : Nat} (h : k < t) (d : Word) : (w.take t).getD k d = w.getD k d := by
  simp [List.getD_eq_getElem?_getD, h]

/-- Settles O22: the message words stay as the schedule grows, and each later word is `shaNextWord` of those before it. -/
theorem messageScheduleRecurrence : Obligations.MessageScheduleRecurrence := by
  unfold Obligations.MessageScheduleRecurrence
  intro b t w
  have length : (shaSchedule b).length = 64 := by rw [shaSchedule, shaExtend_length, shaMessageWords_length]
  refine ⟨length, fun ht => ?_, fun hlo hhi => ?_⟩
  · have stays : shaMessageWords b <+: shaSchedule b := shaExtend_prefix 48 _
    refine (getD_of_prefix stays (by rwa [shaMessageWords_length]) _).trans ?_
    simp [shaMessageWords, ht]
  · have next : w t = shaNextWord ((shaSchedule b).take t) :=
      shaExtend_getD (by rwa [shaMessageWords_length]) (by rwa [shaMessageWords_length])
    have taken : ((shaSchedule b).take t).length = t := by rw [List.length_take, length, min_eq_left hhi.le]
    rw [next, shaNextWord, taken]
    simp only [w, getD_take_of_lt (show t - 2 < t by omega), getD_take_of_lt (show t - 7 < t by omega),
      getD_take_of_lt (show t - 15 < t by omega), getD_take_of_lt (show t - 16 < t by omega)]

/-! ### Absorbing a byte (R152) -/

/-- The bytes absorbed and not yet compressed: the first SHABUFLEN of SHABUF (10_state.md R31, R32). -/
def HashContext.buffered (c : HashContext) : List Byte := c.shabuf.toList.take c.shabuflen.val

theorem HashContext.buffered_length (c : HashContext) : c.buffered.length = c.shabuflen.val := by
  simp [buffered, c.shabuflen.isLt.le]

/-- A byte stored behind the first `r` of a list. -/
theorem take_succ_set {l : List Byte} {r : Nat} (h : r < l.length) (x : Byte) :
    (l.set r x).take (r + 1) = l.take r ++ [x] := by
  rw [List.take_add_one, List.take_set_of_le le_rfl, List.getElem?_set_self h]
  rfl

/-- The buffer up to and with the byte just stored at SHABUFLEN. -/
theorem HashContext.stored_take (c : HashContext) (x : Byte) :
    (c.shabuf.set c.shabuflen x).toList.take (c.shabuflen.val + 1) = c.buffered ++ [x] := by
  rw [Vector.toList_set, take_succ_set (by simp), buffered]

theorem shaAbsorbByte_shabuf (c : HashContext) (x : Byte) :
    (shaAbsorbByte c x).shabuf = c.shabuf.set c.shabuflen x := by
  unfold shaAbsorbByte
  split <;> rfl

theorem shaAbsorbByte_shatotlen (c : HashContext) (x : Byte) :
    (shaAbsorbByte c x).shatotlen = c.shatotlen + 1#64 := by
  unfold shaAbsorbByte
  split <;> rfl

/-- A byte that does not fill the buffer is stored behind the buffered ones. -/
theorem shaAbsorbByte_stores {c : HashContext} (x : Byte) (h : c.shabuflen.val < 63) :
    (shaAbsorbByte c x).shabuflen.val = c.shabuflen.val + 1 ∧ (shaAbsorbByte c x).h = c.h ∧
    (shaAbsorbByte c x).buffered = c.buffered ++ [x] := by
  have fits : c.shabuflen.val + 1 < 64 := by omega
  rw [← c.stored_take, HashContext.buffered, shaAbsorbByte_shabuf]
  simp [shaAbsorbByte, fits]

/-- A byte that fills the buffer compresses it and leaves none buffered. -/
theorem shaAbsorbByte_compresses {c : HashContext} (x : Byte) (h : c.shabuflen.val = 63) :
    (shaAbsorbByte c x).shabuflen = 0 ∧ (shaAbsorbByte c x).h = shaCompress c.h (c.buffered ++ [x]) ∧
    (shaAbsorbByte c x).buffered = [] := by
  have full : ¬ c.shabuflen.val + 1 < 64 := by omega
  have whole : (c.shabuf.set c.shabuflen x).toList = c.buffered ++ [x] := by
    rw [← c.stored_take, List.take_of_length_le (by simp [h])]
  rw [← whole]
  simp [shaAbsorbByte, full, HashContext.buffered]

/-- Settles O19, by whether the byte fills the buffer. -/
theorem absorbByteBuffersOrCompresses : Obligations.AbsorbByteBuffersOrCompresses := by
  unfold Obligations.AbsorbByteBuffersOrCompresses
  intro c x
  refine ⟨?_, shaAbsorbByte_shatag c x, fun j => ?_, fun h => ?_, fun h => ?_⟩
  · rw [shaAbsorbByte_shatotlen]
    exact BitVec.toNat_add ..
  · rw [shaAbsorbByte_shabuf]
    simp [Vector.get_eq_getElem, Vector.getElem_set, Fin.ext_iff, eq_comm]
  · obtain ⟨len, hash, -⟩ := shaAbsorbByte_stores x h
    exact ⟨len, hash⟩
  · obtain ⟨len, hash, -⟩ := shaAbsorbByte_compresses x h
    rw [HashContext.buffered, h] at hash
    exact ⟨len, hash⟩

/-! ### The final padding (R153) -/

/-- The whole 64-byte blocks of a byte string compressed in order from `h` (R153). -/
def compressBlocks (h : HashWords) (s : List Byte) : HashWords := (blocks64 (s.length / 64) s).foldl shaCompress h

theorem shaFinalHash_eq (c : HashContext) : shaFinalHash c = compressBlocks c.h (shaTail c) := rfl

theorem compressBlocks_one {b : List Byte} (hb : b.length = 64) (h : HashWords) : compressBlocks h b = shaCompress h b := by
  simp [compressBlocks, hb, blocks64, List.take_of_length_le]

theorem blocks64_append {j : Nat} {p : List Byte} (hp : p.length = 64 * j) (k : Nat) (s : List Byte) :
    blocks64 (j + k) (p ++ s) = blocks64 j p ++ blocks64 k s := by
  induction j generalizing p with
  | zero =>
    obtain rfl := List.length_eq_zero_iff.1 hp
    simp [blocks64]
  | succ j ih =>
    have first : 64 ≤ p.length := by omega
    rw [Nat.succ_add, blocks64, blocks64, List.take_append_of_le_length first, List.drop_append_of_le_length first,
      ih (by simp; omega), List.cons_append]

/-- Whole blocks are compressed first, what follows them from the hash that they give. -/
theorem compressBlocks_append {p : List Byte} (hp : p.length % 64 = 0) (h : HashWords) (s : List Byte) :
    compressBlocks h (p ++ s) = compressBlocks (compressBlocks h p) s := by
  have count : (p ++ s).length / 64 = p.length / 64 + s.length / 64 := by rw [List.length_append]; omega
  simp only [compressBlocks]
  rw [count, blocks64_append (by omega), List.foldl_append]

/-- R153's two spellings of the length field. -/
theorem shaLengthField_eq (total : BitVec 64) : shaLengthField total = BitVec.ofNat 64 (8 * total.toNat) := by
  apply BitVec.eq_of_toNat_eq
  simp [shaLengthField, BitVec.toNat_mul]

/-- The tail in the terms of the statements. -/
theorem shaTail_eq (c : HashContext) :
    shaTail c = c.buffered ++ [0x80#8] ++ List.replicate (shaZeroBytes c.shabuflen.val) 0x00#8 ++
      be64enc (BitVec.ofNat 64 (8 * c.shatotlen.toNat)) := by
  rw [← shaLengthField_eq]
  rfl

/-- Settles O21: the zero bytes fill the last block, and the tail's blocks are compressed in order. -/
theorem finalStepCompressesOneOrTwoBlocks : Obligations.FinalStepCompressesOneOrTwoBlocks := by
  unfold Obligations.FinalStepCompressesOneOrTwoBlocks
  intro c r tail
  have hr : r < 64 := c.shabuflen.isLt
  have tail_eq : tail (shaZeroBytes r) = shaTail c := (shaTail_eq c).symm
  have tail_length : (shaTail c).length = r + 1 + shaZeroBytes r + 8 := shaTail_length c
  refine ⟨fun h => ?_, fun h => ?_⟩
  · have zeros : 55 - r = shaZeroBytes r := by unfold shaZeroBytes; omega
    rw [zeros, tail_eq, shaFinalHash_eq]
    have length : (shaTail c).length = 64 := by omega
    exact ⟨length, compressBlocks_one length c.h⟩
  · have zeros : 119 - r = shaZeroBytes r := by unfold shaZeroBytes; omega
    rw [zeros, tail_eq, shaFinalHash_eq]
    have length : (shaTail c).length = 128 := by omega
    have first : ((shaTail c).take 64).length = 64 := by simp [length]
    have second : ((shaTail c).drop 64).length = 64 := by simp [length]
    refine ⟨length, ?_⟩
    rw [← compressBlocks_one first, ← compressBlocks_one second, ← compressBlocks_append (by rw [first]),
      List.take_append_drop]

/-! ### Streaming (R163) -/

/-- `c` has absorbed exactly the bytes `m` into a fresh context: their whole blocks are compressed, the rest is buffered,
and the counter counts them all. -/
structure HashContext.HasAbsorbed (c : HashContext) (m : List Byte) : Prop where
  split : ∃ p, p.length % 64 = 0 ∧ m = p ++ c.buffered ∧ c.h = compressBlocks shaH0 p
  counted : c.shatotlen = BitVec.ofNat 64 m.length

theorem shaInitContext_hasAbsorbed (n : Nat) : (shaInitContext n).HasAbsorbed [] where
  split := ⟨[], rfl, rfl, rfl⟩
  counted := rfl

theorem HashContext.HasAbsorbed.absorbByte {c : HashContext} {m : List Byte} (h : c.HasAbsorbed m) (x : Byte) :
    (shaAbsorbByte c x).HasAbsorbed (m ++ [x]) where
  counted := by
    rw [shaAbsorbByte_shatotlen, h.counted, List.length_append, BitVec.ofNat_add]
    rfl
  split := by
    obtain ⟨p, whole, rfl, hash⟩ := h.split
    by_cases room : c.shabuflen.val < 63
    · obtain ⟨-, sameHash, buffered⟩ := shaAbsorbByte_stores x room
      exact ⟨p, whole, by rw [buffered, List.append_assoc], sameHash.trans hash⟩
    · have last : c.shabuflen.val = 63 := by omega
      obtain ⟨-, newHash, buffered⟩ := shaAbsorbByte_compresses x last
      have block : (c.buffered ++ [x]).length = 64 := by rw [List.length_append, c.buffered_length, last]; rfl
      refine ⟨p ++ (c.buffered ++ [x]), by rw [List.length_append]; omega, by simp [buffered], ?_⟩
      rw [newHash, hash, compressBlocks_append whole, compressBlocks_one block]

theorem HashContext.HasAbsorbed.absorbBytes {c : HashContext} {m : List Byte} (h : c.HasAbsorbed m) (l : List Byte) :
    (shaAbsorbBytes c l).HasAbsorbed (m ++ l) := by
  induction l generalizing c m with
  | nil => rwa [List.append_nil]
  | cons x l ih =>
    rw [List.append_cons]
    exact ih (h.absorbByte x)

/-- The padded message is the message's whole blocks and the tail of the context that absorbed it. -/
theorem HashContext.HasAbsorbed.padded {c : HashContext} {m : List Byte} (h : c.HasAbsorbed m) :
    ∃ p, p.length % 64 = 0 ∧ c.h = compressBlocks shaH0 p ∧ shaPadded m = p ++ shaTail c := by
  obtain ⟨p, whole, hm, hash⟩ := h.split
  have rest : m.length % 64 = c.shabuflen.val := by
    have := c.shabuflen.isLt
    rw [hm, List.length_append, c.buffered_length]
    omega
  have field : BitVec.ofNat 64 (8 * m.length) = BitVec.ofNat 64 (8 * c.shatotlen.toNat) := by
    rw [← shaLengthField_eq, shaLengthField, h.counted, BitVec.ofNat_mul]
  refine ⟨p, whole, hash, ?_⟩
  rw [shaPadded, rest, field, hm, shaTail_eq, shaZeroBytes]
  simp only [List.append_assoc]

/-- Settles O57, by the invariant `HasAbsorbed`: the tail completes the whole blocks already compressed to the padded message. -/
theorem streamingHashEqualsOneShotHash : Obligations.StreamingHashEqualsOneShotHash := by
  unfold Obligations.StreamingHashEqualsOneShotHash
  intro n m
  have absorbed : (shaAbsorbBytes (shaInitContext n) m).HasAbsorbed m := (shaInitContext_hasAbsorbed n).absorbBytes m
  obtain ⟨p, whole, hash, padded⟩ := absorbed.padded
  refine ⟨?_, ?_⟩
  · have tail := shaTail_length (shaAbsorbBytes (shaInitContext n) m)
    rw [shaZeroBytes] at tail
    rw [padded, List.length_append]
    omega
  · rw [shaFinalHash_eq, hash, ← compressBlocks_append whole, ← padded, compressBlocks]

end Sys2Proof.Machine
end

section
/-! The SHA-256 commands (41_sha256.md R154, R160 to R163): what each commits, and the digest at DST. -/

namespace Sys2Proof.Machine

/-! ### Byte strings in DMEM -/

theorem memRead_bytes_iff_bytesAt (mem : Memory) (a n : Nat) (m : List Byte) :
    memRead mem a n = .bytes m ↔ BytesAt mem a n m := by
  rw [memRead_bytes_iff]
  refine and_congr_right fun hn => ?_
  subst hn
  exact forall₂_congr fun i hi => by rw [List.getElem?_eq_getElem hi]

/-- A byte string stands where it was written. -/
theorem bytesAt_memWrite (mem : Memory) (a : Nat) {n : Nat} {bs : List Byte} (hn : bs.length = n) :
    BytesAt (memWrite mem a bs) a n bs :=
  (memRead_bytes_iff_bytesAt ..).1 (hn ▸ memRead_memWrite_same mem a bs)

/-! ### The three commands -/

section Commands

variable {s : State} (hruns : s.runs)
include hruns

theorem exec_shaInit : exec .shaInit s = .next (committed .shaInit s []) :=
  exec_commits hruns.1 (preError_eq_none hruns.2 rfl rfl rfl rfl) rfl

theorem exec_shaAbsorb {m : List Byte} (hready : s.sha.shatag = .ready)
    (fits : s.src.toNat + s.len.toNat ≤ s.cfg.dmemSize) (hm : BytesAt s.dmem s.src.toNat s.len.toNat m) :
    exec .shaAbsorb s = .next (committed .shaAbsorb s m) :=
  exec_commits hruns.1
    (preError_eq_none hruns.2 (decide_eq_true fits) rfl (needsReadyContext_ready hready) rfl)
    ((memRead_bytes_iff_bytesAt ..).2 hm)

theorem exec_shaFinal (hready : s.sha.shatag = .ready) (fits : s.dst.toNat + 32 ≤ s.cfg.dmemSize) :
    exec .shaFinal s = .next (committed .shaFinal s []) :=
  exec_commits hruns.1
    (preError_eq_none hruns.2 rfl (decide_eq_true fits) (needsReadyContext_ready hready) rfl) rfl

end Commands

/-- SHA_FINAL leaves the digest of the context at DST (R162). -/
theorem shaFinal_digestAt (s : State) :
    BytesAt (committed .shaFinal s []).dmem s.dst.toNat 32 (shaDigest (shaFinalHash s.sha)) := by
  rw [committed, commitAtDst_dmem]
  exact bytesAt_memWrite s.dmem s.dst.toNat (shaDigest_length _)

/-- Settles O17, by R160's context. -/
theorem shaInitOpensFreshContext : Obligations.ShaInitOpensFreshContext := by
  unfold Obligations.ShaInitOpensFreshContext
  intro s hruns
  exact ⟨_, exec_shaInit hruns, ⟨rfl, rfl, rfl⟩, rfl, rfl, rfl, rfl⟩

/-- Settles O18: the bytes read at SRC are those absorbed. -/
theorem shaAbsorbAbsorbsSourceBytes : Obligations.ShaAbsorbAbsorbsSourceBytes := by
  unfold Obligations.ShaAbsorbAbsorbsSourceBytes
  intro s m hruns hready fits hm
  exact ⟨_, exec_shaAbsorb hruns hready fits hm, ⟨rfl, rfl, rfl⟩, rfl⟩

/-- Settles O20: the digest that stands at DST is R154's byte layout of the new H. -/
theorem shaFinalWritesDigest : Obligations.ShaFinalWritesDigest := by
  unfold Obligations.ShaFinalWritesDigest
  intro s hruns hready fits
  exact ⟨_, exec_shaFinal hruns hready fits, ⟨rfl, rfl, rfl⟩, rfl, rfl, shaFinal_digestAt s⟩

/-- Settles O58: both ways reach one context, since absorbing `m1` and then `m2` is absorbing `m1 ++ m2`, and the digest is
a function of it. -/
theorem digestIndependentOfChunking : Obligations.DigestIndependentOfChunking := by
  unfold Obligations.DigestIndependentOfChunking
  intro s m1 m2 src1 len1 src2 len2 src len hruns fits1 at1 fits2 at2 fits atBoth fitsDst
  let s0 := committed .shaInit s []
  let t1 := committed .shaAbsorb { s0 with src := src1, len := len1 } m1
  let t2 := committed .shaAbsorb { t1 with src := src2, len := len2 } m2
  let u1 := committed .shaAbsorb { s0 with src := src, len := len } (m1 ++ m2)
  have ready1 : t1.sha.shatag = .ready := shaAbsorbBytes_shatag s0.sha m1
  have ready2 : t2.sha.shatag = .ready := (shaAbsorbBytes_shatag t1.sha m2).trans ready1
  have readyBoth : u1.sha.shatag = .ready := shaAbsorbBytes_shatag s0.sha (m1 ++ m2)
  have sameContext : u1.sha = t2.sha := shaAbsorbBytes_append s0.sha m1 m2
  refine ⟨s0, t1, t2, _, u1, _, shaDigest (shaFinalHash t2.sha), exec_shaInit hruns,
    exec_shaAbsorb (s := { s0 with src := src1, len := len1 }) hruns rfl fits1 at1,
    exec_shaAbsorb (s := { t1 with src := src2, len := len2 }) hruns ready1 fits2 at2,
    exec_shaFinal (s := t2) hruns ready2 fitsDst,
    exec_shaAbsorb (s := { s0 with src := src, len := len }) hruns rfl fits atBoth,
    exec_shaFinal (s := u1) hruns readyBoth fitsDst, shaFinal_digestAt t2, ?_⟩
  rw [← sameContext]
  exact shaFinal_digestAt u1

end Sys2Proof.Machine
end

section
/-! The field and the S-boxes (42_aes.md R190 to R193): the affine map bit by bit, and the tables entry by entry. -/

namespace Sys2Proof.Machine

/-- R191's table and R192's formula agree entry by entry, and the power that `gfInv` computes is R190's inverse. The two
stand in one check because both evaluate `gfInv` on every byte. -/
theorem sbox_and_gfInv_entries :
    ∀ x : Byte, sbox x = sboxAffine (gfInv x) ∧ (x ≠ 0x00#8 → gfMul x (gfInv x) = 0x01#8) := by decide +kernel

theorem sbox_eq_sboxAffine_gfInv (x : Byte) : sbox x = sboxAffine (gfInv x) := (sbox_and_gfInv_entries x).1

theorem gfMul_gfInv {b : Byte} (h : b ≠ 0x00#8) : gfMul b (gfInv b) = 0x01#8 := (sbox_and_gfInv_entries b).2 h

/-- A right rotation by `n` brings bit `i + n` to bit `i`, as R192 counts the bits. -/
theorem getLsbD_rotateRight_mod (b : Byte) {n i : Nat} (hn : n < 8) (hi : i < 8) :
    (b.rotateRight n).getLsbD i = b.getLsbD ((i + n) % 8) := by
  rw [BitVec.getLsbD_rotateRight, Nat.mod_eq_of_lt hn, Bool.cond_decide]
  by_cases h : i < 8 - n
  · rw [if_pos h, Nat.mod_eq_of_lt (by omega), Nat.add_comm]
  · have wraps : (i + n) % 8 = i - (8 - n) := by omega
    simp only [if_neg h, hi, wraps, decide_true, Bool.true_and]

theorem getLsbD_sboxAffine (b : Byte) {i : Nat} (hi : i < 8) :
    (sboxAffine b).getLsbD i =
      (b.getLsbD i ^^ b.getLsbD ((i + 4) % 8) ^^ b.getLsbD ((i + 5) % 8) ^^ b.getLsbD ((i + 6) % 8) ^^
        b.getLsbD ((i + 7) % 8) ^^ (0x63#8).getLsbD i) := by
  simp only [sboxAffine, BitVec.getLsbD_xor, getLsbD_rotateRight_mod b (by decide : 4 < 8) hi,
    getLsbD_rotateRight_mod b (by decide : 5 < 8) hi, getLsbD_rotateRight_mod b (by decide : 6 < 8) hi,
    getLsbD_rotateRight_mod b (by decide : 7 < 8) hi]

@[simp] theorem invSbox_sbox : ∀ x : Byte, invSbox (sbox x) = x := by decide +kernel

@[simp] theorem sbox_invSbox : ∀ y : Byte, sbox (invSbox y) = y := by decide +kernel

/-- Settles O54: the field inverse, the affine map bit by bit, and the two tables. -/
theorem sboxIsAffineOfInverse : Obligations.SboxIsAffineOfInverse := by
  unfold Obligations.SboxIsAffineOfInverse
  exact ⟨fun _ => gfMul_gfInv, fun b i => getLsbD_sboxAffine b i.isLt, sbox_eq_sboxAffine_gfInv, invSbox_sbox,
    sbox_invSbox⟩

end Sys2Proof.Machine
end

section
/-! The round transforms (42_aes.md R200 to R206): each inverse transform undoes its transform, in both orders. -/

namespace Sys2Proof.Machine

/-! ### Bytes and columns as vectors of bits

The mix is linear over the field with two elements (R190), so it is known from its values on the columns that hold a single
power of the polynomial `x` in a single cell. -/

theorem gfMul_one : ∀ b : Byte, gfMul 0x01#8 b = b := by decide +kernel

/-- A byte is the sum of the powers of `x` at its set bits (R190): a property that sums keep holds of every byte once it
holds of these powers. -/
theorem byte_xor_induction {P : Byte → Prop} (hxor : ∀ a b, P a → P b → P (a ^^^ b))
    (hpower : ∀ i, i < 8 → P (xtimes i 0x01#8)) (b : Byte) : P b := by
  have fold : ∀ (l : List Nat) (acc : Byte), (∀ i ∈ l, i < 8) → P acc →
      P (l.foldl (fun acc i => if b.getLsbD i then acc ^^^ xtimes i 0x01#8 else acc) acc) := by
    intro l
    induction l with
    | nil => exact fun _ _ hacc => hacc
    | cons i l ih =>
      intro acc hl hacc
      obtain ⟨hi, hl⟩ := List.forall_mem_cons.1 hl
      refine ih _ hl (show P (if b.getLsbD i then acc ^^^ xtimes i 0x01#8 else acc) from ?_)
      split
      · exact hxor _ _ hacc (hpower i hi)
      · exact hacc
  have zero : P 0x00#8 := by simpa using hxor _ _ (hpower 0 (by decide)) (hpower 0 (by decide))
  rw [← gfMul_one b]
  exact fold (List.range 8) 0x00#8 (fun i hi => List.mem_range.1 hi) zero

/-- The sum of two columns, cell by cell (R190). -/
def AesColumn.add (k l : AesColumn) : AesColumn := ⟨k.r0 ^^^ l.r0, k.r1 ^^^ l.r1, k.r2 ^^^ l.r2, k.r3 ^^^ l.r3⟩

/-- The column with `a` in row `r` and zero elsewhere. -/
def AesColumn.single (r : Fin 4) (a : Byte) : AesColumn :=
  let cell := fun j => if r = j then a else 0x00#8
  ⟨cell 0, cell 1, cell 2, cell 3⟩

theorem AesColumn.single_xor (r : Fin 4) (a b : Byte) : single r (a ^^^ b) = (single r a).add (single r b) := by
  fin_cases r <;> simp [single, add]

theorem AesColumn.eq_sum_singles (k : AesColumn) :
    k = (single 0 k.r0).add ((single 1 k.r1).add ((single 2 k.r2).add (single 3 k.r3))) := by
  simp [single, add]

/-- An additive map that fixes the powers of `x` in each row is the identity. -/
theorem eq_self_of_additive {f : AesColumn → AesColumn} (hadd : ∀ k l, f (k.add l) = (f k).add (f l))
    (hpower : ∀ (r : Fin 4) (i : Nat), i < 8 → f (.single r (xtimes i 0x01#8)) = .single r (xtimes i 0x01#8))
    (k : AesColumn) : f k = k := by
  have single (r : Fin 4) (a : Byte) : f (.single r a) = .single r a :=
    byte_xor_induction (P := fun a => f (.single r a) = .single r a)
      (fun a b ha hb => by rw [AesColumn.single_xor, hadd, ha, hb]) (hpower r) a
  rw [k.eq_sum_singles, hadd, hadd, hadd, single, single, single, single]

theorem mixRow_add (x0 x1 x2 x3 : Byte) (k l : AesColumn) :
    mixRow x0 x1 x2 x3 (k.add l) = mixRow x0 x1 x2 x3 k ^^^ mixRow x0 x1 x2 x3 l := by
  simp only [mixRow, AesColumn.add, gfMul_xor]
  ac_rfl

theorem mixColumn_add (k l : AesColumn) : mixColumn (k.add l) = (mixColumn k).add (mixColumn l) := by
  simp only [mixColumn, mixRow_add]
  rfl

theorem invMixColumn_add (k l : AesColumn) : invMixColumn (k.add l) = (invMixColumn k).add (invMixColumn l) := by
  simp only [invMixColumn, mixRow_add]
  rfl

theorem invMixColumn_mixColumn (k : AesColumn) : invMixColumn (mixColumn k) = k :=
  eq_self_of_additive (f := fun k => invMixColumn (mixColumn k))
    (fun k l => by rw [mixColumn_add, invMixColumn_add]) (by decide +kernel) k

theorem mixColumn_invMixColumn (k : AesColumn) : mixColumn (invMixColumn k) = k :=
  eq_self_of_additive (f := fun k => mixColumn (invMixColumn k))
    (fun k l => by rw [invMixColumn_add, mixColumn_add]) (by decide +kernel) k

/-! ### The transforms on the state -/

theorem mapColumns_inverse {f g : AesColumn → AesColumn} (h : ∀ k, f (g k) = k) (s : AesState) :
    mapColumns f (mapColumns g s) = s := by
  simp [mapColumns, h]

theorem mapCells_inverse {f g : Byte → Byte} (h : ∀ x, f (g x) = x) (k : AesColumn) :
    mapCells f (mapCells g k) = k := by
  simp [mapCells, h]

@[simp] theorem invSubBytes_subBytes (s : AesState) : invSubBytes (subBytes s) = s :=
  mapColumns_inverse (mapCells_inverse invSbox_sbox) s

@[simp] theorem subBytes_invSubBytes (s : AesState) : subBytes (invSubBytes s) = s :=
  mapColumns_inverse (mapCells_inverse sbox_invSbox) s

@[simp] theorem invShiftRows_shiftRows (s : AesState) : invShiftRows (shiftRows s) = s := rfl

@[simp] theorem shiftRows_invShiftRows (s : AesState) : shiftRows (invShiftRows s) = s := rfl

@[simp] theorem invMixColumns_mixColumns (s : AesState) : invMixColumns (mixColumns s) = s :=
  mapColumns_inverse invMixColumn_mixColumn s

@[simp] theorem mixColumns_invMixColumns (s : AesState) : mixColumns (invMixColumns s) = s :=
  mapColumns_inverse mixColumn_invMixColumn s

@[simp] theorem addWord_addWord (k : AesColumn) (w : Word) : addWord (addWord k w) w = k := by
  simp [addWord]

/-- AddRoundKey is its own inverse (R200). -/
@[simp] theorem addRoundKey_addRoundKey (w : List Word) (r : Nat) (s : AesState) :
    addRoundKey w r (addRoundKey w r s) = s := by
  simp [addRoundKey]

/-! ### The shifts cell by cell (R203, R204) -/

theorem aesCell_shiftRows (s : AesState) {r c : Nat} (hr : r < 4) (hc : c < 4) :
    aesCell (shiftRows s) r c = aesCell s r ((c + r) % 4) := by
  interval_cases r <;> interval_cases c <;> rfl

/-- Settles O55: the cells by R203, R204's cells from R203's, and the three inverses. -/
theorem inverseTransformsUndoTransforms : Obligations.InverseTransformsUndoTransforms := by
  unfold Obligations.InverseTransformsUndoTransforms
  intro s
  have unshifted : ∀ r c, r < 4 → c < 4 → aesCell (invShiftRows s) r ((c + r) % 4) = aesCell s r c :=
    fun r c hr hc => by rw [← aesCell_shiftRows _ hr hc, shiftRows_invShiftRows]
  exact ⟨fun r c hr hc => aesCell_shiftRows s hr hc, unshifted, invSubBytes_subBytes s, invShiftRows_shiftRows s,
    invMixColumns_mixColumns s⟩

end Sys2Proof.Machine
end

section
/-! The block cipher and its inverse (42_aes.md R207 to R209): each round of one undoes a round of the other, up to the
SubBytes and ShiftRows that stand before the round key in one and after it in the other. -/

namespace Sys2Proof.Machine

/-- Round `r` of the inverse cipher, entered where the forward cipher's next round has substituted and shifted. -/
theorem decRound_encRound (w : List Word) (r : Nat) (s : AesState) :
    decRound w r (shiftRows (subBytes (encRound w r s))) = shiftRows (subBytes s) := by
  simp [decRound, encRound]

theorem encRound_decRound (w : List Word) (r : Nat) (s : AesState) :
    encRound w r (invSubBytes (invShiftRows (decRound w r s))) = invSubBytes (invShiftRows s) := by
  simp [decRound, encRound]

theorem decRounds_encRounds (w : List Word) (n : Nat) (s : AesState) :
    decRounds w n (shiftRows (subBytes (encRounds w n s))) = shiftRows (subBytes s) := by
  induction n with
  | zero => rfl
  | succ n ih => rw [decRounds, encRounds, decRound_encRound, ih]

theorem encRounds_decRounds (w : List Word) (n : Nat) (s : AesState) :
    encRounds w n (invSubBytes (invShiftRows (decRounds w n s))) = invSubBytes (invShiftRows s) := by
  induction n generalizing s with
  | zero => rfl
  | succ n ih => rw [decRounds, encRounds, ih, encRound_decRound]

theorem invCipherState_cipherState (w : List Word) (nr : Nat) (s : AesState) :
    invCipherState w nr (cipherState w nr s) = s := by
  simp [invCipherState, cipherState, decRounds_encRounds]

theorem cipherState_invCipherState (w : List Word) (nr : Nat) (s : AesState) :
    cipherState w nr (invCipherState w nr s) = s := by
  simp [invCipherState, cipherState, encRounds_decRounds]

theorem aesInvCipher_aesCipher (w : List Word) (nr : Nat) {b : List Byte} (hb : b.length = 16) :
    aesInvCipher w nr (aesCipher w nr b) = b := by
  rw [aesInvCipher, aesCipher, stateOfBlock_blockOfState, invCipherState_cipherState, blockOfState_stateOfBlock hb]

theorem aesCipher_aesInvCipher (w : List Word) (nr : Nat) {b : List Byte} (hb : b.length = 16) :
    aesCipher w nr (aesInvCipher w nr b) = b := by
  rw [aesInvCipher, aesCipher, stateOfBlock_blockOfState, cipherState_invCipherState, blockOfState_stateOfBlock hb]

/-- Settles O56, by induction on the rounds. -/
theorem aesRoundTrip : Obligations.AesRoundTrip := by
  unfold Obligations.AesRoundTrip
  exact fun w nr b hb => ⟨aesInvCipher_aesCipher w nr hb, aesCipher_aesInvCipher w nr hb⟩

end Sys2Proof.Machine
end

section
/-! The key expansion (42_aes.md R198). -/

namespace Sys2Proof.Machine

theorem keyExtend_length (nk n : Nat) (w : List Word) : (keyExtend nk n w).length = w.length + n := by
  induction n generalizing w with
  | zero => rfl
  | succ n ih => simp [keyExtend, ih]; omega

/-- The words that stand already stay. -/
theorem keyExtend_prefix (nk n : Nat) (w : List Word) : w <+: keyExtend nk n w := by
  induction n generalizing w with
  | zero => exact List.prefix_refl w
  | succ n ih => exact (List.prefix_append w _).trans (ih _)

/-- Each added word is the next word after the ones before it. -/
theorem keyExtend_getD (nk : Nat) {n t : Nat} {w : List Word} (hlo : w.length ≤ t) (hhi : t < w.length + n) :
    (keyExtend nk n w).getD t 0#32 = keyNextWord nk ((keyExtend nk n w).take t) := by
  induction n generalizing w with
  | zero => omega
  | succ n ih =>
    rcases hlo.eq_or_lt with rfl | hlt
    · have before : (keyExtend nk (n + 1) w).take w.length = w := (List.prefix_iff_eq_take.1 (keyExtend_prefix ..)).symm
      rw [before, keyExtend, getD_of_prefix (keyExtend_prefix ..) (by simp)]
      simp
    · exact ih (by simpa using hlt) (by simp; omega)

/-- `Nk` words of the key and the words after them make R198's `4(Nr+1)`. The hypothesis holds of every legal key. -/
theorem keyExpansion_length {k : List Byte} (h : keyNk k ≤ 4 * (keyNr k + 1)) :
    (keyExpansion k).length = 4 * (keyNr k + 1) := by
  simp [keyExpansion, keyExtend_length, h]

theorem keyExpansion_getD_key {k : List Byte} {i : Nat} (hi : i < keyNk k) :
    (keyExpansion k).getD i 0#32 = be32 k (4 * i) := by
  rw [keyExpansion, getD_of_prefix (keyExtend_prefix ..) (by simpa using hi)]
  simp [hi]

/-- A word beyond the key, from the schedule's own earlier words. -/
theorem keyExpansion_getD_next {k : List Byte} {i : Nat} (hpos : 0 < keyNk k) (hlo : keyNk k ≤ i)
    (hhi : i < (keyExpansion k).length) :
    let w := fun j => (keyExpansion k).getD j 0#32
    w i = w (i - keyNk k) ^^^
      (if i % keyNk k = 0 then subWord (rotWord (w (i - 1))) ^^^ aesRcon (i / keyNk k)
       else if keyNk k = 8 ∧ i % 8 = 4 then subWord (w (i - 1))
       else w (i - 1)) := by
  intro w
  have next : w i = keyNextWord (keyNk k) ((keyExpansion k).take i) :=
    keyExtend_getD _ (by simpa using hlo) (by simpa [keyExpansion, keyExtend_length] using hhi)
  have taken : ((keyExpansion k).take i).length = i := by rw [List.length_take, min_eq_left hhi.le]
  rw [next, keyNextWord, taken]
  simp only [w, getD_take_of_lt (show i - 1 < i by omega), getD_take_of_lt (show i - keyNk k < i by omega)]

/-- Settles O24: the key words stay as the schedule grows, and each later word is `keyNextWord` of those before it. -/
theorem keyExpansionRecurrence : Obligations.KeyExpansionRecurrence := by
  unfold Obligations.KeyExpansionRecurrence
  intro k i hk nk w
  have hnk : 4 ≤ keyNk k ∧ keyNk k ≤ 8 := by unfold keyNk; omega
  have length : (keyExpansion k).length = 4 * (nk + 6 + 1) := keyExpansion_length (by unfold keyNr; omega)
  exact ⟨length, keyExpansion_getD_key, fun hlo hhi => keyExpansion_getD_next (by omega) hlo (length ▸ hhi)⟩

end Sys2Proof.Machine
end

section
/-! The AES commands (42_aes.md R220 to R222): what each commits, the loaded schedule, and the block at DST. -/

namespace Sys2Proof.Machine

section Commands

variable {s : State} (hruns : s.runs)
include hruns

theorem exec_aesKey {k : List Byte} (fits : s.src.toNat + s.len.toNat ≤ s.cfg.dmemSize)
    (hlen : s.len.toNat = 16 ∨ s.len.toNat = 24 ∨ s.len.toNat = 32) (hk : BytesAt s.dmem s.src.toNat s.len.toNat k) :
    exec .aesKey s = .next (committed .aesKey s k) :=
  exec_commits hruns.1
    (preError_eq_none hruns.2 (decide_eq_true fits) rfl rfl (if_pos ((keyLengthLegal_iff _).2 hlen)))
    ((memRead_bytes_iff_bytesAt ..).2 hk)

variable (hkey : s.aes.keyvalid = true) (fitsSrc : s.src.toNat + 16 ≤ s.cfg.dmemSize)
  (fitsDst : s.dst.toNat + 16 ≤ s.cfg.dmemSize) {b : List Byte} (hb : BytesAt s.dmem s.src.toNat 16 b)
include hkey fitsSrc fitsDst hb

theorem exec_aesEnc : exec .aesEnc s = .next (committed .aesEnc s b) :=
  exec_commits hruns.1
    (preError_eq_none hruns.2 (decide_eq_true fitsSrc) (decide_eq_true fitsDst) (needsKey_loaded hkey) rfl)
    ((memRead_bytes_iff_bytesAt ..).2 hb)

theorem exec_aesDec : exec .aesDec s = .next (committed .aesDec s b) :=
  exec_commits hruns.1
    (preError_eq_none hruns.2 (decide_eq_true fitsSrc) (decide_eq_true fitsDst) (needsKey_loaded hkey) rfl)
    ((memRead_bytes_iff_bytesAt ..).2 hb)

end Commands

/-- RK holds every word of a schedule of at most 60 words (10_state.md R38). -/
theorem loadSchedule_getElem? (n : Nat) {w : List Word} (hw : w.length ≤ 60) {i : Nat} (hi : i < w.length) :
    (loadSchedule n w).toList[i]? = w[i]? := by
  have hi60 : i < 60 := hi.trans_le hw
  simp [loadSchedule, hi, hi60]

/-- Settles O23: a legal key's schedule fits RK, so each of its words is loaded. -/
theorem aesKeyLoadsExpandedKey : Obligations.AesKeyLoadsExpandedKey := by
  unfold Obligations.AesKeyLoadsExpandedKey
  intro s k hruns fits hlen hk
  have hnk : keyNk k = s.len.toNat / 4 := by rw [keyNk, hk.1]
  have length : (keyExpansion k).length = 4 * (keyNr k + 1) := keyExpansion_length (by unfold keyNr; omega)
  refine ⟨_, exec_aesKey hruns fits hlen hk, ⟨rfl, rfl, rfl⟩, rfl, hnk, rfl, fun i hi => ?_⟩
  exact loadSchedule_getElem? _ (by rw [length, keyNr]; omega) (length ▸ hi)

/-- A commit at DST completes, reports its length, and leaves its bytes at DST (40_command_cycle.md R125, R128). -/
theorem commitAtDst_completes {bs : List Byte} {n : Nat} (hbs : bs.length = n) (hn : n < 2 ^ 32) (s : State) :
    CompletedWith (commitAtDst bs s) .ok n ∧ BytesAt (commitAtDst bs s).dmem s.dst.toNat n bs := by
  refine ⟨⟨rfl, ?_, rfl⟩, ?_⟩
  · rw [commitAtDst_outlen, hbs, BitVec.toNat_ofNat, Nat.mod_eq_of_lt hn]
  · rw [commitAtDst_dmem]
    exact bytesAt_memWrite s.dmem s.dst.toNat hbs

/-- Settles O25: the block is read whole before it is written, so an overlap does not matter. -/
theorem aesEncWritesCiphertextBlock : Obligations.AesEncWritesCiphertextBlock := by
  unfold Obligations.AesEncWritesCiphertextBlock
  intro s p hruns hkey fitsSrc fitsDst hp
  exact ⟨commitAtDst (aesCipher (keyWords s) s.aes.nr p) s, exec_aesEnc hruns hkey fitsSrc fitsDst hp,
    commitAtDst_completes (aesCipher_length ..) (by decide) s⟩

/-- Settles O26: as for O25, the whole block is read before any byte of it is written. -/
theorem aesDecWritesPlaintextBlock : Obligations.AesDecWritesPlaintextBlock := by
  unfold Obligations.AesDecWritesPlaintextBlock
  intro s c hruns hkey fitsSrc fitsDst hc
  exact ⟨commitAtDst (aesInvCipher (keyWords s) s.aes.nr c) s, exec_aesDec hruns hkey fitsSrc fitsDst hc,
    commitAtDst_completes (aesInvCipher_length ..) (by decide) s⟩

end Sys2Proof.Machine
end

section
/-! CBC chaining (43_pkcs7_chain.md R252, R253): one block at a time in both directions, and the reversed chain undoes the
chain. -/

namespace Sys2Proof.Machine

/-- Induction on a byte string of whole 16-byte blocks, one block at a time. -/
theorem blockwise_induction {P : (x : List Byte) → x.length % 16 = 0 → Prop} (nil : P [] rfl)
    (cons : ∀ (b x : List Byte) (hb : b.length = 16) (hx : x.length % 16 = 0), P x hx →
      P (b ++ x) (by rw [List.length_append, hb, Nat.add_mod_left, hx])) (x : List Byte) (hx : x.length % 16 = 0) :
    P x hx := by
  obtain ⟨k, hk⟩ : ∃ k, x.length = 16 * k := ⟨x.length / 16, by omega⟩
  induction k generalizing x with
  | zero =>
    obtain rfl := List.length_eq_zero_iff.1 hk
    exact nil
  | succ k ih =>
    obtain ⟨b, y, rfl, hb⟩ : ∃ b y, x = b ++ y ∧ b.length = 16 :=
      ⟨x.take 16, x.drop 16, (List.take_append_drop 16 x).symm, by rw [List.length_take]; omega⟩
    rw [List.length_append] at hx hk
    exact cons b y hb (by omega) (ih y (by omega) (by omega))

/-! ### Exclusive-or -/

theorem xorBytes_length {a b : List Byte} (h : a.length = b.length) : (xorBytes a b).length = a.length := by
  simp [xorBytes, h]

theorem xorBytes_cancel {a b : List Byte} (h : a.length = b.length) : xorBytes (xorBytes a b) b = a := by
  refine List.ext_getElem (by simp [xorBytes, h]) fun i _ _ => ?_
  simp [xorBytes]

/-! ### The blocks of a byte string -/

theorem blocks16_append {b : List Byte} (hb : b.length = 16) (x : List Byte) :
    blocks16 ((b ++ x).length / 16) (b ++ x) = b :: blocks16 (x.length / 16) x := by
  have count : (b ++ x).length / 16 = x.length / 16 + 1 := by rw [List.length_append]; omega
  rw [count, blocks16, List.take_left' hb, List.drop_left' hb]

/-- Block 0 is the first block, and each later one a block of the rest. -/
theorem blockOf_append {b : List Byte} (hb : b.length = 16) (x : List Byte) (j : Nat) :
    blockOf (b ++ x) j = if j = 0 then b else blockOf x (j - 1) := by
  cases j with
  | zero => simp [blockOf, hb]
  | succ j =>
    rw [if_neg j.succ_ne_zero, Nat.add_sub_cancel, blockOf, Nat.mul_succ, Nat.add_comm, ← List.drop_drop,
      List.drop_left' hb, blockOf]

theorem blockOf_append_zero {b : List Byte} (hb : b.length = 16) (x : List Byte) : blockOf (b ++ x) 0 = b :=
  blockOf_append hb x 0

theorem blockOf_append_succ {b : List Byte} (hb : b.length = 16) (x : List Byte) (j : Nat) :
    blockOf (b ++ x) (j + 1) = blockOf x j :=
  blockOf_append hb x (j + 1)

/-! ### The chain and the reversed chain, block by block -/

section Chain

variable (w : List Word) (nr : Nat)

@[simp] theorem chainEnc_nil (iv : List Byte) : chainEnc w nr iv [] = [] := rfl

@[simp] theorem chainDec_nil (iv : List Byte) : chainDec w nr iv [] = [] := rfl

/-- The chain's first block is chained to the next as the IV of the rest. -/
theorem chainEnc_append {b : List Byte} (hb : b.length = 16) (iv x : List Byte) :
    chainEnc w nr iv (b ++ x) =
      aesCipher w nr (xorBytes b iv) ++ chainEnc w nr (aesCipher w nr (xorBytes b iv)) x := by
  rw [chainEnc, blocks16_append hb, chainEncBlocks, chainEnc]

theorem chainDec_append {b : List Byte} (hb : b.length = 16) (iv x : List Byte) :
    chainDec w nr iv (b ++ x) = xorBytes (aesInvCipher w nr b) iv ++ chainDec w nr b x := by
  rw [chainDec, blocks16_append hb, chainDecBlocks, chainDec]

theorem chainEnc_length_blocks (iv : List Byte) {x : List Byte} (hx : x.length % 16 = 0) :
    (chainEnc w nr iv x).length = x.length := by
  rw [chainEnc, chainEncBlocks_length, blocks16_length]
  omega

theorem xorBytes_aesInvCipher_length (b : List Byte) {iv : List Byte} (hiv : iv.length = 16) :
    (xorBytes (aesInvCipher w nr b) iv).length = 16 :=
  xorBytes_length hiv.symm

theorem chainDec_length_blocks {iv x : List Byte} (hiv : iv.length = 16) (hx : x.length % 16 = 0) :
    (chainDec w nr iv x).length = x.length := by
  induction x, hx using blockwise_induction generalizing iv with
  | nil => rfl
  | cons b x hb _ ih =>
    rw [chainDec_append w nr hb, List.length_append, List.length_append, ih hb,
      xorBytes_aesInvCipher_length w nr b hiv, hb]

/-- Block `j` of the chain (R252): what it is combined with is block `j` of the IV followed by the chain. -/
theorem blockOf_chainEnc {iv x : List Byte} (hiv : iv.length = 16) (hx : x.length % 16 = 0) {j : Nat}
    (hj : 16 * j < x.length) :
    blockOf (chainEnc w nr iv x) j =
      aesCipher w nr (xorBytes (blockOf x j) (blockOf (iv ++ chainEnc w nr iv x) j)) := by
  induction x, hx using blockwise_induction generalizing iv j with
  | nil => exact absurd hj (Nat.not_lt_zero _)
  | cons b x hb _ ih =>
    have first : (aesCipher w nr (xorBytes b iv)).length = 16 := aesCipher_length ..
    rw [chainEnc_append w nr hb]
    cases j with
    | zero => rw [blockOf_append_zero first, blockOf_append_zero hb, blockOf_append_zero hiv]
    | succ j =>
      rw [blockOf_append_succ first, blockOf_append_succ hb, blockOf_append_succ hiv]
      exact ih first (by rw [List.length_append] at hj; omega)

/-- Block `j` of the reversed chain (R253): what it is combined with is block `j` of the IV followed by the ciphertext. -/
theorem blockOf_chainDec {iv x : List Byte} (hiv : iv.length = 16) (hx : x.length % 16 = 0) {j : Nat}
    (hj : 16 * j < x.length) :
    blockOf (chainDec w nr iv x) j = xorBytes (aesInvCipher w nr (blockOf x j)) (blockOf (iv ++ x) j) := by
  induction x, hx using blockwise_induction generalizing iv j with
  | nil => exact absurd hj (Nat.not_lt_zero _)
  | cons b x hb _ ih =>
    have first := xorBytes_aesInvCipher_length w nr b hiv
    rw [chainDec_append w nr hb]
    cases j with
    | zero => rw [blockOf_append_zero first, blockOf_append_zero hb, blockOf_append_zero hiv]
    | succ j =>
      rw [blockOf_append_succ first, blockOf_append_succ hb, blockOf_append_succ hiv]
      exact ih hb (by rw [List.length_append] at hj; omega)

/-- The reversed chain undoes the chain: the inverse cipher undoes the cipher, and the ciphertext block before is the same
in both directions. -/
theorem chainDec_chainEnc {iv x : List Byte} (hiv : iv.length = 16) (hx : x.length % 16 = 0) :
    chainDec w nr iv (chainEnc w nr iv x) = x := by
  induction x, hx using blockwise_induction generalizing iv with
  | nil => rw [chainEnc_nil, chainDec_nil]
  | cons b x hb _ ih =>
    have equal : b.length = iv.length := hb.trans hiv.symm
    have first : (aesCipher w nr (xorBytes b iv)).length = 16 := aesCipher_length ..
    rw [chainEnc_append w nr hb, chainDec_append w nr first, ih first,
      aesInvCipher_aesCipher w nr ((xorBytes_length equal).trans hb), xorBytes_cancel equal]

end Chain

/-- Settles O32, by induction on the blocks in each direction. -/
theorem chainBlockRules : Obligations.ChainBlockRules := by
  unfold Obligations.ChainBlockRules
  intro w nr iv x k hiv hx c p
  have whole : x.length % 16 = 0 := by omega
  refine ⟨(chainEnc_length_blocks w nr iv whole).trans hx, (chainDec_length_blocks w nr hiv whole).trans hx,
    fun j hj => ?_, chainDec_chainEnc w nr hiv whole⟩
  rw [← blockOf_append hiv, ← blockOf_append hiv]
  exact ⟨blockOf_chainEnc w nr hiv whole (by omega), blockOf_chainDec w nr hiv whole (by omega)⟩

end Sys2Proof.Machine
end

section
/-! The padding and chaining commands (43_pkcs7_chain.md R250 to R259): what each commits, and that DECRYPT undoes ENCRYPT
and UNPAD undoes PAD. -/

namespace Sys2Proof.Machine

/-! ### The four commands -/

section Commands

variable {s : State} {m : List Byte} (hruns : s.runs) (fitsSrc : s.src.toNat + s.len.toNat ≤ s.cfg.dmemSize)
  (hm : BytesAt s.dmem s.src.toNat s.len.toNat m)
include hruns fitsSrc hm

theorem exec_pad (fitsDst : s.dst.toNat + paddedLength s.len.toNat ≤ s.cfg.dmemSize) :
    exec .pad s = .next (committed .pad s m) :=
  exec_commits hruns.1
    (preError_eq_none hruns.2 (decide_eq_true fitsSrc) (decide_eq_true fitsDst) rfl rfl)
    ((memRead_bytes_iff_bytesAt ..).2 hm)

theorem exec_encrypt (hkey : s.aes.keyvalid = true)
    (fitsDst : s.dst.toNat + paddedLength s.len.toNat ≤ s.cfg.dmemSize) :
    exec .encrypt s = .next (committed .encrypt s m) :=
  exec_commits hruns.1
    (preError_eq_none hruns.2 (decide_eq_true fitsSrc) (decide_eq_true fitsDst) (needsKey_loaded hkey) rfl)
    ((memRead_bytes_iff_bytesAt ..).2 hm)

variable (fitsDst : s.dst.toNat + s.len.toNat ≤ s.cfg.dmemSize)
include fitsDst

theorem exec_unpad : exec .unpad s = .next (committed .unpad s m) :=
  exec_commits hruns.1
    (preError_eq_none hruns.2 (decide_eq_true fitsSrc) (decide_eq_true fitsDst) rfl rfl)
    ((memRead_bytes_iff_bytesAt ..).2 hm)

theorem exec_decrypt (hkey : s.aes.keyvalid = true) (whole : s.len.toNat % 16 = 0) :
    exec .decrypt s = .next (committed .decrypt s m) :=
  exec_commits hruns.1
    (preError_eq_none hruns.2 (decide_eq_true fitsSrc) (decide_eq_true fitsDst) (needsKey_loaded hkey) (if_pos whole))
    ((memRead_bytes_iff_bytesAt ..).2 hm)

end Commands

/-! ### Padding -/

theorem pkcs7Pad_eq {m : List Byte} {n : Nat} (hm : m.length = n) :
    pkcs7Pad m = m ++ List.replicate (16 - n % 16) (BitVec.ofNat 8 (16 - n % 16)) := by
  rw [← hm]
  rfl

/-- R250's padding is well padded in the sense of R251. -/
theorem pkcs7Pad_paddedForm (m : List Byte) : PaddedForm (pkcs7Pad m) m := by
  obtain ⟨lo, hi⟩ := padLength_bounds m.length
  exact ⟨by rw [pkcs7Pad_length, paddedLength_mod], _, lo, hi, rfl⟩

theorem PaddedForm.length_le {b r : List Byte} (h : PaddedForm b r) : r.length ≤ b.length :=
  pkcs7Unpad_length_le ((pkcs7Unpad_eq_some_iff b r).2 h)

theorem commitUnpadded_paddedForm {b r : List Byte} (h : PaddedForm b r) (s : State) :
    commitUnpadded b s = commitAtDst r s := by
  rw [commitUnpadded, (pkcs7Unpad_eq_some_iff b r).2 h]

theorem commitUnpadded_rejects {b : List Byte} (h : ∀ r, ¬ PaddedForm b r) (s : State) :
    RejectedWith s (commitUnpadded b s) .invalidPadding := by
  obtain ⟨-, heq⟩ | ⟨r, hr, -⟩ := commitUnpadded_cases b s
  · rw [heq]
    rfl
  · exact absurd ((pkcs7Unpad_eq_some_iff b r).1 hr) (h r)

/-- The end of UNPAD and DECRYPT on a well-padded buffer of at most LEN bytes: the bytes before the trailer stand at DST. -/
theorem commitUnpadded_completes {s : State} {b r : List Byte} (h : PaddedForm b r) (short : b.length ≤ s.len.toNat) :
    CompletedWith (commitUnpadded b s) .ok r.length ∧ BytesAt (commitUnpadded b s).dmem s.dst.toNat r.length r := by
  rw [commitUnpadded_paddedForm h]
  exact commitAtDst_completes rfl ((h.length_le.trans short).trans_lt s.len.isLt) s

/-- A padded length that fits in a legal DMEM (00_scope.md R7) fits in OUTLEN. -/
theorem paddedLength_lt {size a n : Nat} (hsize : size ≤ 0xF000) (fits : a + paddedLength n ≤ size) :
    paddedLength n < 2 ^ 32 := by
  omega

/-! ### PAD and UNPAD -/

/-- Settles O27: the padded length of the statement is the model's. -/
theorem padAppendsPkcs7Trailer : Obligations.PadAppendsPkcs7Trailer := by
  unfold Obligations.PadAppendsPkcs7Trailer
  intro s m hruns hsize len padLen fitsSrc fitsDst hm
  obtain ⟨lo, hi⟩ := padLength_bounds len
  rw [← pkcs7Pad_eq hm.1]
  exact ⟨lo, hi, _, exec_pad hruns fitsSrc hm fitsDst,
    commitAtDst_completes (hm.1 ▸ pkcs7Pad_length m) (paddedLength_lt hsize fitsDst) s⟩

/-- Settles O28: the bytes read are well padded, and those before the trailer are committed. -/
theorem unpadStripsTrailer : Obligations.UnpadStripsTrailer := by
  unfold Obligations.UnpadStripsTrailer
  intro s b r hruns fitsSrc fitsDst hb hpadded
  exact ⟨_, exec_unpad hruns fitsSrc hb fitsDst, commitUnpadded_completes hpadded hb.1.le⟩

/-- Settles O29: both commands end in the content check, which rejects what has no padded form. -/
theorem malformedPaddingIsRejected : Obligations.MalformedPaddingIsRejected := by
  unfold Obligations.MalformedPaddingIsRejected
  intro s b hruns fitsSrc fitsDst hb
  exact ⟨fun hbad => ⟨_, exec_unpad hruns fitsSrc hb fitsDst, commitUnpadded_rejects hbad s⟩,
    fun hkey whole hbad => ⟨_, exec_decrypt hruns fitsSrc hb fitsDst hkey whole, commitUnpadded_rejects hbad s⟩⟩

/-- Settles O60: what PAD wrote is well padded, so UNPAD commits the bytes before the trailer. -/
theorem unpadRestoresPadded : Obligations.UnpadRestoresPadded := by
  unfold Obligations.UnpadRestoresPadded
  intro s m dst' hruns hsize len n fitsSrc fitsDst fitsDst' hm
  have hn : n = len + (16 - len % 16) := by omega
  rw [hn] at fitsDst fitsDst' ⊢
  obtain ⟨-, -, t, written, ⟨herr, outlen, hbusy⟩, padded⟩ := padAppendsPkcs7Trailer s m hruns hsize fitsSrc fitsDst hm
  obtain ⟨hcfg, hfatal⟩ := exec_keeps_cfg_fatal written
  rw [← pkcs7Pad_eq hm.1, ← outlen] at padded
  rw [← outlen, ← hcfg] at fitsDst fitsDst'
  obtain ⟨u, read, restored⟩ := unpadStripsTrailer { t with src := s.dst, len := t.outlen, dst := dst' } _ m
    ⟨hcfg ▸ hruns.1, hfatal.trans hruns.2⟩ fitsDst fitsDst' padded (pkcs7Pad_paddedForm m)
  rw [hm.1] at restored
  exact ⟨t, u, written, ⟨herr, outlen, hbusy⟩, read, restored⟩

/-! ### The draws and the IV register -/

/-- The `j`-th draw: the next injected answer while there is one, else the free value of the history before it (R291). -/
theorem rngDraws_getElem? {n j : Nat} (hj : j < n) (s : State) :
    (rngDraws n s)[j]? =
      some (s.rngAnswers.getD j (Config.rngOracle s.resets (s.rngHistory ++ (rngDraws n s).take j))) := by
  induction n generalizing j s with
  | zero => exact absurd hj (Nat.not_lt_zero j)
  | succ n ih =>
    cases j with
    | zero => cases hanswers : s.rngAnswers <;> simp [rngDraws, rngNext, hanswers]
    | succ j =>
      rw [rngDraws, List.getElem?_cons_succ, ih (Nat.lt_of_succ_lt_succ hj)]
      simp [List.getD_eq_getElem?_getD]

theorem ivOfBytes_toList {bs : List Byte} (h : bs.length = 16) : (ivOfBytes bs).toList = bs := by
  refine List.ext_getElem (by simp [h]) fun i _ hi => ?_
  simp [ivOfBytes, hi]

theorem committed_encrypt_iv (s : State) (m : List Byte) : (committed .encrypt s m).iv.toList = rngDraws 16 s :=
  ivOfBytes_toList (rngDraws_length 16 s)

theorem committed_encrypt_rngHistory (s : State) (m : List Byte) :
    (committed .encrypt s m).rngHistory = s.rngHistory ++ rngDraws 16 s := by
  simp only [committed, commitEncrypted_rngHistory, rngAfter_rngHistory]

theorem committed_encrypt_rngAnswers (s : State) (m : List Byte) :
    (committed .encrypt s m).rngAnswers = s.rngAnswers.drop 16 := by
  simp only [committed, commitEncrypted_rngAnswers, rngAfter_rngAnswers]

/-! ### ENCRYPT and DECRYPT -/

/-- What ENCRYPT commits: the chain of the padded bytes under the drawn IV at DST, and its length in OUTLEN. -/
theorem encrypt_completes {s : State} {m : List Byte} (hsize : s.cfg.dmemSize ≤ 0xF000) (hm : m.length = s.len.toNat)
    (fits : s.dst.toNat + paddedLength s.len.toNat ≤ s.cfg.dmemSize) :
    CompletedWith (committed .encrypt s m) .ok (paddedLength s.len.toNat) ∧
      BytesAt (committed .encrypt s m).dmem s.dst.toNat (paddedLength s.len.toNat)
        (chainEnc (keyWords s) s.aes.nr (rngDraws 16 s) (pkcs7Pad m)) := by
  have length := chainEnc_length (keyWords s) s.aes.nr (rngDraws 16 s) m
  rw [hm] at length
  have done := commitAtDst_completes length (paddedLength_lt hsize fits)
    { rngAfter 16 s with iv := ivOfBytes (rngDraws 16 s) }
  simpa [committed, commitEncrypted, keyWords] using done

/-- Settles O30: the draws are the IV, and the padded length of the statement is the model's. -/
theorem encryptDrawsIvAndWritesChain : Obligations.EncryptDrawsIvAndWritesChain := by
  unfold Obligations.EncryptDrawsIvAndWritesChain
  intro s m hruns hsize hkey len padLen fitsSrc fitsDst hm
  obtain ⟨done, chain⟩ := encrypt_completes hsize hm.1 fitsDst
  rw [← pkcs7Pad_eq hm.1]
  exact ⟨_, rngDraws 16 s, exec_encrypt hruns fitsSrc hm hkey fitsDst, done, rngDraws_length 16 s,
    committed_encrypt_rngHistory s m, committed_encrypt_iv s m, committed_rngout s m nofun,
    fun j hj => rngDraws_getElem? hj s,
    committed_encrypt_rngAnswers s m, chain⟩

/-- Settles O31: as for O28, after the reversed chain. -/
theorem decryptWritesUnpaddedChain : Obligations.DecryptWritesUnpaddedChain := by
  unfold Obligations.DecryptWritesUnpaddedChain
  intro s c r hruns hkey whole fitsSrc fitsDst hc hpadded
  obtain ⟨done, plain⟩ := commitUnpadded_completes hpadded ((chainDec_length_le ..).trans hc.1.le)
  exact ⟨_, exec_decrypt hruns fitsSrc hc fitsDst hkey whole, done, plain, committed_iv s c nofun⟩

/-- Only AES_KEY changes the key (30_encoding.md R92). -/
theorem exec_keeps_aes {i : Instr} {s t : State} (h : exec i s = .next t) (hkey : i ≠ .aesKey) : t.aes = s.aes := by
  obtain ⟨-, ⟨e, -, rfl⟩ | ⟨-, m, -, rfl⟩⟩ := exec_next h
  · rfl
  · exact committed_aes s m hkey

/-- DECRYPT of the chain of padded bytes, under the IV register and the loaded key, gives back the bytes. -/
theorem exec_decrypt_chainEnc {s : State} {m : List Byte} (hruns : s.runs) (hkey : s.aes.keyvalid = true)
    (fitsSrc : s.src.toNat + s.len.toNat ≤ s.cfg.dmemSize) (fitsDst : s.dst.toNat + s.len.toNat ≤ s.cfg.dmemSize)
    (hc : BytesAt s.dmem s.src.toNat s.len.toNat
      (chainEnc s.aes.rk.toList s.aes.nr s.iv.toList (pkcs7Pad m))) :
    ∃ u, exec .decrypt s = .next u ∧ CompletedWith u .ok m.length ∧ BytesAt u.dmem s.dst.toNat m.length m := by
  have padded := pkcs7Pad_paddedForm m
  have whole : s.len.toNat % 16 = 0 := by rw [← hc.1, chainEnc_length, paddedLength_mod]
  rw [← chainDec_chainEnc s.aes.rk.toList s.aes.nr s.iv.length_toList padded.1] at padded
  obtain ⟨u, run, done, plain, -⟩ := decryptWritesUnpaddedChain s _ m hruns hkey whole fitsSrc fitsDst hc padded
  exact ⟨u, run, done, plain⟩

/-- Settles O59: ENCRYPT keeps the key and leaves its IV in the register, so DECRYPT finds the chain it can undo. -/
theorem decryptRestoresEncrypted : Obligations.DecryptRestoresEncrypted := by
  unfold Obligations.DecryptRestoresEncrypted
  intro s m dst' hruns hsize hkey len n fitsSrc fitsDst fitsDst' hm
  have hn : n = len + (16 - len % 16) := by omega
  rw [hn] at fitsDst fitsDst' ⊢
  obtain ⟨t, iv, written, ⟨herr, outlen, hbusy⟩, -, -, hiv, -, -, -, chain⟩ :=
    encryptDrawsIvAndWritesChain s m hruns hsize hkey fitsSrc fitsDst hm
  obtain ⟨hcfg, hfatal⟩ := exec_keeps_cfg_fatal written
  have haes := exec_keeps_aes written nofun
  rw [← pkcs7Pad_eq hm.1, ← haes, ← hiv, ← outlen] at chain
  rw [← outlen, ← hcfg] at fitsDst fitsDst'
  obtain ⟨u, read, restored⟩ := exec_decrypt_chainEnc (s := { t with src := s.dst, len := t.outlen, dst := dst' })
    ⟨hcfg ▸ hruns.1, hfatal.trans hruns.2⟩ (haes ▸ hkey) fitsDst fitsDst' chain
  rw [hm.1] at restored
  exact ⟨t, u, written, ⟨herr, outlen, hbusy⟩, read, restored⟩

end Sys2Proof.Machine
end

section
/-! The RNG command (44_rng.md R291, R292): where a draw comes from, and what RNG_GET commits. -/

namespace Sys2Proof.Machine

/-- The next draw with no answer injected: the oracle's free value (R291). -/
theorem rngNext_of_rngAnswers_nil {s : State} (h : s.rngAnswers = []) :
    rngNext s = Config.rngOracle s.resets s.rngHistory := by
  rw [rngNext, h]

/-- The next draw with answers injected: the first of them (the choice of log 7). -/
theorem rngNext_of_rngAnswers_cons {s : State} {y : Byte} {ys : List Byte} (h : s.rngAnswers = y :: ys) :
    rngNext s = y := by
  rw [rngNext, h]

/-- RNG_GET has no operand range, context or length to check (40_command_cycle.md R123): FATAL clear is enough. -/
theorem exec_rngGet {s : State} (hruns : s.runs) : exec .rngGet s = .next (committed .rngGet s []) :=
  exec_commits hruns.1 (preError_eq_none hruns.2 rfl rfl rfl rfl) rfl

theorem committed_rngGet_rngHistory (s : State) :
    (committed .rngGet s []).rngHistory = s.rngHistory ++ [rngNext s] :=
  rngAfter_rngHistory 1 s

theorem committed_rngGet_rngAnswers (s : State) : (committed .rngGet s []).rngAnswers = s.rngAnswers.tail :=
  (rngAfter_rngAnswers 1 s).trans List.drop_one

/-- Settles O33: the byte is the oracle's next answer, injected or free. -/
theorem rngGetReturnsOneDraw : Obligations.RngGetReturnsOneDraw := by
  unfold Obligations.RngGetReturnsOneDraw
  intro s hruns
  refine ⟨_, rngNext s, exec_rngGet hruns, ⟨rfl, rfl, rfl⟩, committed_rngGet_rngHistory s, rfl,
    rngNext_of_rngAnswers_nil, fun y ys hanswers => ⟨rngNext_of_rngAnswers_cons hanswers, ?_⟩⟩
  rw [committed_rngGet_rngAnswers, hanswers, List.tail_cons]

end Sys2Proof.Machine
end

section
/-! What the host cannot read (60_exceptions.md R333; 10_state.md R30, R37, R40, R41): every host access answers alike on two
states that differ only in what has no read path. -/

namespace Sys2Proof.Machine

/-- `s` with what has no read path taken from `u`: H, SHABUF, SHABUFLEN, SHATOTLEN, NR, the key schedule, PENDING, the
oracle's state and the count of free values. -/
def State.withSecretsOf (s u : State) : State :=
  { s with
    sha := { u.sha with shatag := s.sha.shatag }
    aes := { s.aes with nr := u.aes.nr, rk := u.aes.rk }
    pending := u.pending, rngHistory := u.rngHistory, rngAnswers := u.rngAnswers, resets := u.resets
    freeCount := u.freeCount }

theorem sameButSecrets_iff {s s' : State} : SameButSecrets s s' ↔ ∃ u, s' = s.withSecretsOf u := by
  constructor
  · exact fun h => ⟨s', h⟩
  · rintro ⟨u, rfl⟩
    rfl

theorem SameButSecrets.rdata_eq {s s' : State} (h : SameButSecrets s s') : s'.rdata = s.rdata := by
  rw [h]

theorem SameButSecrets.turns_eq {s s' : State} (h : SameButSecrets s s') : s'.turns = s.turns := by
  rw [h]

/-- Two outcomes that the host cannot tell apart: next states with the same values for everything it reads, or one fault. -/
inductive SameOutcome : Result → Result → Prop where
  | next {t t' : State} (h : SameButSecrets t t') : SameOutcome (.next t) (.next t')
  | fault (f : Fault) : SameOutcome (.fault f) (.fault f)

section Access

variable (s u : State)

@[simp] theorem withSecretsOf_cfg : (s.withSecretsOf u).cfg = s.cfg := rfl
@[simp] theorem withSecretsOf_dmem : (s.withSecretsOf u).dmem = s.dmem := rfl
@[simp] theorem inBusyWindow_withSecretsOf : inBusyWindow (s.withSecretsOf u) = inBusyWindow s := rfl

/-- No register shows a secret; STATUS reads SHATAG, KEYVALID and NK of the two contexts, and nothing else of them. -/
theorem regReadDone_withSecretsOf (r : HostReg) :
    SameButSecrets (regReadDone r s) (regReadDone r (s.withSecretsOf u)) := by
  cases r <;> rfl

/-- A write of CMD overwrites PENDING with the same word (40_command_cycle.md R120); no other write reaches a secret. -/
theorem regWrite_withSecretsOf (v : Word) (r : HostReg) :
    SameButSecrets (regWrite v s r) (regWrite v (s.withSecretsOf u) r) := by
  cases r <;> rfl

theorem underConfig_sameOutcome {r r' : Result} (h : SameOutcome r r') :
    SameOutcome (underConfig s r) (underConfig (s.withSecretsOf u) r') := by
  unfold underConfig
  rw [withSecretsOf_cfg]
  cases s.cfg.chainMode with
  | cbc => exact h
  | other name => exact .fault _

theorem hostRead_sameOutcome (width off : Nat) :
    SameOutcome (hostRead width off s) (hostRead width off (s.withSecretsOf u)) := by
  unfold hostRead
  rw [inBusyWindow_withSecretsOf, withSecretsOf_cfg]
  split
  · exact .fault _
  · cases busTarget s.cfg.dmemSize width off with
    | none => exact .fault _
    | some target =>
      cases target with
      | reg r => exact .next (regReadDone_withSecretsOf s u r)
      | dmem a n =>
        dsimp only
        rw [withSecretsOf_dmem]
        cases memRead s.dmem a n with
        | bytes bs => exact .next rfl
        | unwritten x => exact .fault _

theorem hostWrite_sameOutcome (width off : Nat) (v : Word) :
    SameOutcome (hostWrite width off v s) (hostWrite width off v (s.withSecretsOf u)) := by
  unfold hostWrite
  rw [inBusyWindow_withSecretsOf, withSecretsOf_cfg]
  split
  · exact .fault _
  · cases busTarget s.cfg.dmemSize width off with
    | none => exact .fault _
    | some target =>
      cases target with
      | reg r => exact .next (regWrite_withSecretsOf s u v r)
      | dmem a n => exact .next rfl

theorem hostAccess_sameOutcome (a : HostAccess) :
    SameOutcome (hostAccess a s) (hostAccess a (s.withSecretsOf u)) := by
  refine underConfig_sameOutcome s u ?_
  cases a with
  | read width addr =>
    dsimp only
    rw [withSecretsOf_cfg]
    cases busOffset s.cfg addr with
    | none => exact .next rfl
    | some off => exact hostRead_sameOutcome s u width off
  | write width addr v =>
    dsimp only
    rw [withSecretsOf_cfg]
    cases busOffset s.cfg addr with
    | none => exact .next rfl
    | some off => exact hostWrite_sameOutcome s u width off v

end Access

theorem step_host_sameOutcome {s s' : State} {a : HostAccess} {ts : List Turn} (hturns : s.turns = .host a :: ts)
    (hsame : SameButSecrets s s') : SameOutcome (step s) (step s') := by
  rw [step_host hturns, step_host (hsame.turns_eq.trans hturns)]
  obtain ⟨u, rfl⟩ := sameButSecrets_iff.1 hsame
  exact hostAccess_sameOutcome { s with turns := ts } u a

/-- Settles O47: the two steps are the same host access, whose outcomes the host cannot tell apart. -/
theorem hostCannotReadSecrets : Obligations.HostCannotReadSecrets := by
  unfold Obligations.HostCannotReadSecrets
  intro s s' a ts hturns hsame
  have outcome := step_host_sameOutcome hturns hsame
  generalize step s' = r at outcome ⊢
  refine ⟨fun t ht => ?_, fun f hf => ?_⟩
  · rw [ht] at outcome
    cases outcome with
    | next same => exact ⟨_, rfl, same, same.rdata_eq⟩
  · rw [hf] at outcome
    cases outcome with
    | fault => rfl

end Sys2Proof.Machine
end

section
/-! The errors and the faults of a command (60_exceptions.md R321 to R330, R339; 40_command_cycle.md R123): the checks after
the range check, which code each check raises and for which commands, and what alone can stop a command. -/

namespace Sys2Proof.Machine

/-! ### Checks 4 and 5 reject -/

/-- With FATAL clear and the ranges in DMEM, the context check decides, then the length check (R123). -/
theorem preError_inside {i : Instr} {s : State} (hf : s.fatal = false)
    (hsrc : rangeFits s.cfg.dmemSize (sourceRange i s) = true)
    (hdst : rangeFits s.cfg.dmemSize (destRange i s) = true) :
    preError i s = (contextError i s).or (lengthError i s) := by
  simp [preError, fatalError_clear hf, boundsError, hsrc, hdst]

section Rejections

variable {s : State} (hruns : s.runs) {i : Instr} {e : ErrCode}
  (hsrc : rangeFits s.cfg.dmemSize (sourceRange i s) = true) (hdst : rangeFits s.cfg.dmemSize (destRange i s) = true)
include hruns hsrc hdst

theorem exec_rejects_context (hctx : contextError i s = some e) :
    ∃ t, exec i s = .next t ∧ RejectedWith s t e :=
  ⟨_, exec_rejects hruns.1 (by rw [preError_inside hruns.2 hsrc hdst, hctx, Option.some_or]), rfl⟩

theorem exec_rejects_length (hctx : contextError i s = none) (hlen : lengthError i s = some e) :
    ∃ t, exec i s = .next t ∧ RejectedWith s t e :=
  ⟨_, exec_rejects hruns.1 (by rw [preError_inside hruns.2 hsrc hdst, hctx, hlen, Option.none_or]), rfl⟩

end Rejections

theorem needsReadyContext_finalized {s : State} (h : s.sha.shatag = .finalized) :
    needsReadyContext s = some .contextFinalized := if_pos h

theorem needsKey_missing {s : State} (h : s.aes.keyvalid = false) : needsKey s = some .noKey := by
  simp [needsKey, h]

/-- Settles O11: the context check of both commands. -/
theorem finalizedContextIsRejected : Obligations.FinalizedContextIsRejected := by
  unfold Obligations.FinalizedContextIsRejected
  intro s hruns hfinal
  have context := needsReadyContext_finalized hfinal
  exact ⟨fun fits => exec_rejects_context (i := .shaAbsorb) hruns (decide_eq_true fits) rfl context,
    fun fits => exec_rejects_context (i := .shaFinal) hruns rfl (decide_eq_true fits) context⟩

/-- Settles O12: the context check of the four commands, which stands before the length check. -/
theorem missingKeyIsRejected : Obligations.MissingKeyIsRejected := by
  unfold Obligations.MissingKeyIsRejected
  intro s hruns hnokey
  have context := needsKey_missing hnokey
  have rejects (i : Instr) (hctx : contextError i s = needsKey s)
      (hsrc : rangeFits s.cfg.dmemSize (sourceRange i s) = true)
      (hdst : rangeFits s.cfg.dmemSize (destRange i s) = true) :
      ∃ t, exec i s = .next t ∧ RejectedWith s t .noKey := exec_rejects_context hruns hsrc hdst (hctx.trans context)
  refine ⟨fun hsrc hdst => ⟨?_, ?_⟩, fun hsrc => ⟨fun hdst => ?_, fun hdst => ?_⟩⟩
  · exact rejects .aesEnc rfl (decide_eq_true hsrc) (decide_eq_true hdst)
  · exact rejects .aesDec rfl (decide_eq_true hsrc) (decide_eq_true hdst)
  · rw [← paddedLength_eq] at hdst
    exact rejects .encrypt rfl (decide_eq_true hsrc) (decide_eq_true hdst)
  · exact rejects .decrypt rfl (decide_eq_true hsrc) (decide_eq_true hdst)

/-- Settles O13: the length check of both commands; a rejection keeps the loaded key. -/
theorem illegalLengthsAreRejected : Obligations.IllegalLengthsAreRejected := by
  unfold Obligations.IllegalLengthsAreRejected
  intro s hruns hsrc
  constructor
  · rintro ⟨h16, h24, h32⟩
    have illegal : ¬ keyLengthLegal s.len.toNat = true := by simp [keyLengthLegal_iff, h16, h24, h32]
    obtain ⟨t, hx, rejected⟩ :=
      exec_rejects_length (i := .aesKey) hruns (decide_eq_true hsrc) rfl rfl (if_neg illegal)
    exact ⟨t, hx, rejected, by rw [rejected]⟩
  · intro hdst hkey hmod
    exact exec_rejects_length (i := .decrypt) hruns (decide_eq_true hsrc) (decide_eq_true hdst) (needsKey_loaded hkey)
      (if_neg hmod)

/-! ### Which check raises which code (R321) -/

section Codes

variable {i : Instr} {s : State} {e : ErrCode}

theorem fatalError_eq_some (h : fatalError s = some e) : e = .entropySourceUnavailable ∧ s.fatal = true := by
  unfold fatalError at h
  split at h
  next hf => exact ⟨(Option.some.inj h).symm, hf⟩
  · cases h

/-- SHA_INIT and RNG_GET have no range, so they raise no BoundsError. -/
theorem boundsError_eq_some (h : boundsError i s = some e) : e = .boundsError ∧ i ≠ .shaInit ∧ i ≠ .rngGet := by
  unfold boundsError at h
  split at h
  · cases h
  next outside =>
    refine ⟨(Option.some.inj h).symm, ?_, ?_⟩ <;> rintro rfl <;> exact outside rfl

theorem needsReadyContext_eq_some (h : needsReadyContext s = some e) : e = .contextFinalized := by
  unfold needsReadyContext at h
  split at h <;> cases h
  rfl

theorem needsKey_eq_some (h : needsKey s = some e) : e = .noKey := by
  unfold needsKey at h
  split at h <;> cases h
  rfl

theorem contextError_eq_some (h : contextError i s = some e) :
    (e = .contextFinalized ∧ (i = .shaAbsorb ∨ i = .shaFinal)) ∨
    (e = .noKey ∧ (i = .aesEnc ∨ i = .aesDec ∨ i = .encrypt ∨ i = .decrypt)) := by
  cases i with
  | shaAbsorb | shaFinal => exact .inl ⟨needsReadyContext_eq_some h, by simp⟩
  | aesEnc | aesDec | encrypt | decrypt => exact .inr ⟨needsKey_eq_some h, by simp⟩
  | _ => cases h

theorem lengthError_eq_some (h : lengthError i s = some e) :
    (e = .invalidKeyLength ∧ i = .aesKey) ∨ (e = .invalidCiphertextLength ∧ i = .decrypt) := by
  cases i with
  | aesKey =>
    simp only [lengthError] at h
    split at h <;> cases h
    exact .inl ⟨rfl, rfl⟩
  | decrypt =>
    simp only [lengthError] at h
    split at h <;> cases h
    exact .inr ⟨rfl, rfl⟩
  | _ => cases h

/-- The code of the first failing check is the code of one of the four checks. -/
theorem preError_eq_some (h : preError i s = some e) :
    fatalError s = some e ∨ boundsError i s = some e ∨ contextError i s = some e ∨ lengthError i s = some e := by
  simp only [preError, Option.or_eq_some_iff] at h
  tauto

end Codes

/-- Only UNPAD and DECRYPT check the content of what they read (R123, step 7). -/
theorem committed_err (i : Instr) (s : State) (m : List Byte) :
    (committed i s m).err = .ok ∨ ((committed i s m).err = .invalidPadding ∧ (i = .unpad ∨ i = .decrypt)) := by
  cases i with
  | unpad | decrypt => exact (committed_ok_or_rejected _ s m).imp_right fun hrej => ⟨by rw [hrej, reject_err], by simp⟩
  | _ => exact .inl rfl

/-- Settles O15: a command ends with the code of its first failing check, or with what its commit leaves in ERR. -/
theorem eachCommandRaisesOnlyItsErrors : Obligations.EachCommandRaisesOnlyItsErrors := by
  unfold Obligations.EachCommandRaisesOnlyItsErrors
  intro i s t h
  obtain ⟨-, ⟨e, hp, rfl⟩ | ⟨-, m, -, rfl⟩⟩ := exec_next h
  · rw [reject_err]
    obtain hfatal | hbounds | hctx | hlen := preError_eq_some hp
    · exact .inr (.inl (fatalError_eq_some hfatal))
    · exact .inr (.inr (.inl (boundsError_eq_some hbounds)))
    · obtain finalized | noKey := contextError_eq_some hctx
      · exact .inr (.inr (.inr (.inl finalized)))
      · exact .inr (.inr (.inr (.inr (.inl noKey))))
    · obtain keyLength | textLength := lengthError_eq_some hlen
      · exact .inr (.inr (.inr (.inr (.inr (.inl keyLength)))))
      · exact .inr (.inr (.inr (.inr (.inr (.inr (.inl textLength))))))
  · obtain ok | padding := committed_err i s m
    · exact .inl ok
    · exact .inr (.inr (.inr (.inr (.inr (.inr (.inr padding))))))

/-! ### What stops a command (R339) -/

theorem UnwrittenInSource.lt_dmemSize {i : Instr} {s : State} {a : Nat} (h : UnwrittenInSource i s a)
    (fits : rangeFits s.cfg.dmemSize (sourceRange i s) = true) : a < s.cfg.dmemSize := by
  obtain ⟨-, r, hr, -, hlt⟩ := h
  rw [hr] at fits
  exact hlt.trans_le (of_decide_eq_true fits)

/-- Settles O16: a command that reaches its operand read has passed the range check, so the byte it stops at lies in DMEM. -/
theorem commandStopsOnlyOnUnwrittenSource : Obligations.CommandStopsOnlyOnUnwrittenSource := by
  unfold Obligations.CommandStopsOnlyOnUnwrittenSource
  intro i s hc
  obtain ⟨e, -, hx⟩ | ⟨-, m, -, hx⟩ | ⟨hp, a, hm, hx⟩ := exec_cases i hc
  · exact .inl ⟨_, hx⟩
  · exact .inl ⟨_, hx⟩
  · obtain ⟨-, fits, -⟩ := preError_none hp
    have unwritten := unwrittenInSource_of_memRead hm
    exact .inr ⟨a, hx, unwritten, UnwrittenInSource.lt_dmemSize unwritten fits⟩

end Sys2Proof.Machine
end

section
/-! The BUSY window and the reset (70_reset_and_hazards.md R360 to R364): which accesses the window refuses, the STATUS read
that closes it, the host's view of a reset state, and a reset of a running machine. -/

namespace Sys2Proof.Machine

/-! ### The BUSY window -/

/-- Inside a BUSY window every host read but a 32-bit read of STATUS is a hazard violation; for writes see
`step_write_hazard`. -/
theorem step_read_hazard {s : State} {width off : Nat} {ts : List Turn} (hc : s.cfg.chainMode = .cbc)
    (h : NextRead s width off ts) (hopen : s.busy = true ∨ s.busyWindow = true) (hother : ¬ (width = 32 ∧ off = 0x004)) :
    step s = .fault (.hostHazard off) := by
  rw [step_read hc h]
  exact if_pos (by simpa [inBusyWindow] using ⟨hopen, not_and_or.1 hother⟩)

/-- Settles O40: reads and writes both test the window before they look for a target. -/
theorem accessInBusyWindowIsHazard : Obligations.AccessInBusyWindowIsHazard := by
  unfold Obligations.AccessInBusyWindowIsHazard
  intro s width off v ts hc hopen
  exact ⟨fun h => step_write_hazard hc h hopen, fun h hother => step_read_hazard hc h hopen hother⟩

/-- Settles O41: the access is the STATUS read of the scripts, for either value of BUSY. -/
theorem statusReadClosesBusyWindow : Obligations.StatusReadClosesBusyWindow := by
  unfold Obligations.StatusReadClosesBusyWindow
  intro s ts hc h
  obtain ⟨hturns, -⟩ := h
  exact step_scriptRD_status hc rfl hturns

/-! ### The reset state -/

/-- ERR after a reset: 4 exactly when no entropy source was found (44_rng.md R294). -/
theorem errCode_afterReset (cfg : Config) (present : Bool) :
    errCode (State.afterReset cfg present).err = if present then 0#4 else 4#4 := by
  cases present <;> rfl

/-- STATUS after a reset: FATAL and ERR alone can be nonzero. -/
theorem statusWord_afterReset (cfg : Config) (present : Bool) :
    statusWord (State.afterReset cfg present) = if present then 0x00000000#32 else 0x00000402#32 := by
  have noKey : keySize (State.afterReset cfg present) = 0#2 := keySize_without_key rfl
  have notReady : shaReady (State.afterReset cfg present) = false := rfl
  rw [statusWord, errCode_afterReset, noKey, notReady]
  cases present <;> simp [State.afterReset, flagWord]

theorem afterReset_iv_getElem? (cfg : Config) (present : Bool) {j : Nat} (hj : j < 16) :
    (State.afterReset cfg present).iv.toList[j]? = some 0x00#8 := by
  have bytes : (State.afterReset cfg present).iv.toList = List.replicate 16 0x00#8 := Vector.toList_replicate
  rw [bytes, List.getElem?_replicate_of_lt hj]

/-- Settles O48: the fields of `State.afterReset`, whose STATUS is computed for each draw. -/
theorem resetStateIsAsSpecified : Obligations.ResetStateIsAsSpecified := by
  unfold Obligations.ResetStateIsAsSpecified
  intro cfg present
  exact ⟨rfl, rfl, rfl, rfl, rfl, rfl, fun j hj => afterReset_iv_getElem? cfg present hj, rfl, rfl, rfl, fun _ => rfl, rfl,
    errCode_afterReset cfg present, statusWord_afterReset cfg present⟩

/-- Settles O51, by the base case of the invariant. -/
theorem invariantHoldsAtReset : Obligations.InvariantHoldsAtReset := by
  unfold Obligations.InvariantHoldsAtReset
  exact afterReset_inv

/-! ### A reset of a running machine -/

/-- What a reset keeps of the running machine (log 16) is out of the host's sight. -/
theorem observe_platformReset (present : Bool) (s : State) :
    observe (platformReset present s) = observe (State.afterReset s.cfg present) := rfl

/-- Settles O49: under CBC the turn answers `platformReset`, whose fields are those of the reset state. -/
theorem platformResetRestoresResetState : Obligations.PlatformResetRestoresResetState := by
  unfold Obligations.PlatformResetRestoresResetState
  intro s present ts hc hturns
  have hstep : step s = .next (platformReset present { s with turns := ts }) :=
    (step_reset hturns).trans (underConfig_cbc hc _)
  exact ⟨_, hstep, observe_platformReset present _, platformReset_cfg present _, platformReset_fatal present _,
    platformReset_busy present _, platformReset_busyWindow present _, rfl, rfl, fun _ => rfl,
    platformReset_rngHistory present _, platformReset_turns present _⟩

end Sys2Proof.Machine
end
